-- ==== Sys2Proof/Word.lean ====
section
/-! DEFINITION. The word types of rgb2yiq CORE and the one widening it performs. -/

namespace Sys2Proof

/-- An 8-bit unsigned number; a byte of a container (00_scope.md R11). -/
abbrev Byte := BitVec 8

/-- `u32` (R11): image width and height. -/
abbrev U32 := BitVec 32

/-- `u64` (R11): the pixel counters. -/
abbrev U64 := BitVec 64

/-- `zext_64` (R11): the only extension CORE performs (44_pipeline.md R201). -/
def zext64 (v : U32) : U64 := v.setWidth 64

end Sys2Proof
end

