-- ==== Sys2Proof/Syntax.lean ====
section
/-! DEFINITION. The data types of the spec (methods, pixels, triplets, error kinds) and the operations of CORE: one
constructor of `Instr` per row of spec/opcode_table.json. -/

namespace Sys2Proof

/-- `ColorimetryMethod` (10_state.md R20): the 1-bit value `m`, 0 = NTSC1953, 1 = SMPTEC. -/
inductive Method where
  | ntsc1953
  | smptec
  deriving DecidableEq, Repr, Inhabited

/-- The encoding of a method as one bit (R20). -/
def Method.bit : Method → BitVec 1
  | .ntsc1953 => 0#1
  | .smptec => 1#1

/-- An RGB pixel (R22): every value of the three bytes is legal. -/
structure Rgb where
  r : Byte
  g : Byte
  b : Byte
  deriving DecidableEq, Repr

/-- A stored triplet (R23, 30_encoding.md R72): the bytes Y, I, Q. -/
structure Triplet where
  y : Byte
  i : Byte
  q : Byte
  deriving DecidableEq, Repr

/-- Which byte of a triplet unit DEC expects (10_state.md R29 `d_lane`: 0 = Y, 1 = I, 2 = Q; 3 never occurs). -/
inductive Lane where
  | y
  | i
  | q
  deriving DecidableEq, Repr, Inhabited

/-- The 2-bit encoding of `d_lane` (R29): 0 = Y, 1 = I, 2 = Q; 3 never occurs. -/
def Lane.bits : Lane → BitVec 2
  | .y => 0#2
  | .i => 1#2
  | .q => 2#2

/-- `YiqImage{m, w, h, data}` (R24): the information content of a container. -/
structure YiqImage where
  method : Method
  width : U32
  height : U32
  data : List Triplet
  deriving DecidableEq, Repr

/-- The error kinds (60_exceptions.md R210), in the order of the taxonomy. CORE raises only `invalidFormat`,
`unsupportedVersion`, `invalidMethod` and `truncatedData` (R211). -/
inductive ErrKind where
  | unreadableImage
  | invalidFormat
  | unsupportedVersion
  | invalidMethod
  | truncatedData
  | unsupportedFormat
  | ioFailure
  deriving DecidableEq, Repr

/-- The operations of CORE (30_encoding.md R76) and the two formats of R70 and R72: one constructor per row of the
opcode table, the operands already turned into typed values. -/
inductive Instr where
  /-- `RGB2YIQ m, R, G, B` (R100). -/
  | rgb2yiq (m : Method) (r g b : Byte)
  /-- `YIQ2RGB m, Y, I, Q` (R120). -/
  | yiq2rgb (m : Method) (y i q : Byte)
  /-- `ENC.START m, w, h` (R145). -/
  | encStart (m : Method) (w h : U32)
  /-- `ENC.HDR` (R146), autonomous. -/
  | encHdr
  /-- `ENC.PIX R, G, B` (R147). -/
  | encPix (r g b : Byte)
  /-- `DEC.START` (R172). -/
  | decStart
  /-- `DEC.BYTE b` (R173 to R175). -/
  | decByte (b : Byte)
  /-- `DEC.EOS` (R176). -/
  | decEos
  /-- `RESET` (R240). -/
  | reset
  /-- `FMT.HEADER` (R70): the 17 header bytes with these fields. -/
  | fmtHeader (m : Method) (w h : U32)
  /-- `FMT.TRIPLET` (R72): the three bytes of one triplet. -/
  | fmtTriplet (y i q : Byte)
  deriving DecidableEq, Repr

/-- Where a word comes from. CORE has no opcode field and no shared opcode space: an operation is told apart by the
port its item arrives on (R76), so a word is decoded together with its format. The four formats without a port are
`rgb2yiq`, `yiq2rgb`, `header`, `triplet`; `auto` is ENC.HDR, which has no item. -/
inductive Format where
  | rgb2yiq
  | yiq2rgb
  | eCmd
  | auto
  | ePix
  | dCmd
  | dIn
  | rst
  | header
  | triplet
  deriving DecidableEq, Repr

/-- The number of bits of an item (30_encoding.md R74; R70, R72 for the formats; the opcode table's 25 bits for the
pure operations). -/
def Format.width : Format → Nat
  | .rgb2yiq => 25
  | .yiq2rgb => 25
  | .eCmd => 65
  | .auto => 0
  | .ePix => 24
  | .dCmd => 0
  | .dIn => 9
  | .rst => 0
  | .header => 136
  | .triplet => 24

end Sys2Proof
end

