-- ==== Sys2Proof/Config.lean ====
section
/-! DEFINITION. What an instance of CORE fixes: the constants of 00_scope.md R8, the number format and the tie rule of
R10, the open coefficient sets of R9, and the free values. -/

namespace Sys2Proof

/-- How a rounding to the nearest integer settles a tie (R10 `ROUND`, R104). -/
inductive RoundMode where
  /-- ties away from zero -/
  | halfAwayFromZero
  /-- ties to the even neighbour -/
  | halfEven
  deriving DecidableEq, Repr

/-- `NUMERICS` (R10): the formulas are evaluated in exact rationals. DESIGN CHOICE of the spec (D6), log 7. -/
abbrev Exact := Rat

/-- Three rationals: a row of weights, or a column `(r, g, b)` or `(y, i, q)`. -/
structure Vec3 where
  x : Exact
  y : Exact
  z : Exact
  deriving DecidableEq, Repr

/-- A 3×3 matrix by rows. For `COEFF(m)` the rows are `wY`, `wI`, `wQ` (R9); for `MINV(m)` those of r, g, b (R122). -/
structure Mat3 where
  row0 : Vec3
  row1 : Vec3
  row2 : Vec3
  deriving DecidableEq, Repr

/-- The determinant of a 3×3 matrix. -/
def Mat3.det (a : Mat3) : Exact :=
  a.row0.x * (a.row1.y * a.row2.z - a.row1.z * a.row2.y)
    - a.row0.y * (a.row1.x * a.row2.z - a.row1.z * a.row2.x)
    + a.row0.z * (a.row1.x * a.row2.y - a.row1.y * a.row2.x)

/-- What R9 asks of a legal `COEFF(m)`: (i) the luma weights sum to 1 and (iii) the determinant is not 0. -/
def Mat3.legal (a : Mat3) : Bool :=
  decide (a.row0.x + a.row0.y + a.row0.z = 1) && decide (a.det ≠ 0)

/-- A legal coefficient set: the matrix together with what R9 requires of it. The default only shows that legal sets
exist; `Config.coeff` below has no body, so nothing can be proved to equal it. -/
structure Coeff where
  mat : Mat3 := ⟨⟨1, 0, 0⟩, ⟨0, 1, 0⟩, ⟨0, 0, 1⟩⟩
  isLegal : mat.legal = true := by decide +kernel
  deriving Inhabited

namespace Config

/-- `COEFF` (R9): an open parameter, any legal set for each method. No body: no weight can be proved. Log 6. -/
opaque coeff : Method → Coeff

/-- `OFF_I` (R8). -/
def offI : Exact := 5957 / 10000

/-- `OFF_Q` (R8). -/
def offQ : Exact := 5226 / 10000

/-- `SCALE` (R8). -/
def scale : Exact := 100

/-- `YMAX` (R8). -/
def yMax : Int := 100

/-- `IMAX` (R8). -/
def iMax : Int := 119

/-- `QMAX` (R8). -/
def qMax : Int := 105

/-- `CHMAX` (R8). -/
def chMax : Int := 255

/-- `FMT_VERSION` (R8, 30_encoding.md R71). -/
def fmtVersion : Byte := 0x01#8

/-- `HDR_LEN` (R8). -/
def hdrLen : Nat := 17

/-- The magic `YIQ` in bytes (R71). -/
def magic : List Byte := [0x59#8, 0x49#8, 0x51#8]

/-- The sentinel `DATA` in bytes (R71). -/
def sentinel : List Byte := [0x44#8, 0x41#8, 0x54#8, 0x41#8]

/-- `ROUND` (R10): ties away from zero. DESIGN CHOICE of the spec (D7), log 7. -/
def roundMode : RoundMode := .halfAwayFromZero

/-- The value a `w`-bit register holds after RESET has made it unspecified (70_reset_and_hazards.md R240): free, one
value per draw. Log 5. -/
opaque freeBits (w : Nat) (draw : Nat) : BitVec w

/-- The free value of a method register after RESET (R240). Log 5. -/
opaque freeMethod (draw : Nat) : Method

/-- The free value of `d_lane` after RESET (R240; 3 never occurs, R29). Log 5. -/
opaque freeLane (draw : Nat) : Lane

end Config

end Sys2Proof
end

