-- ==== Sys2Proof/Machine/Arith.lean ====
section
/-! DEFINITION. The arithmetic of 00_scope.md R15 and the two colour transforms as pure functions of a coefficient
matrix (40_rgb2yiq.md R100, 41_yiq2rgb.md R120), evaluated in exact rationals. -/

namespace Sys2Proof.Machine

/-- Round to the nearest integer, ties away from zero (R15). -/
def roundHalfAway (x : Exact) : Int :=
  if 0 ≤ x then (x + 1 / 2).floor else -((-x + 1 / 2).floor)

/-- Round to the nearest integer, ties to the even neighbour (R104, the alternative the spec names). -/
def roundHalfEven (x : Exact) : Int :=
  let f := x.floor
  if x - f < 1 / 2 then f
  else if 1 / 2 < x - f then f + 1
  else if f % 2 = 0 then f else f + 1

/-- Rounding under a given tie rule (R10 `ROUND`). -/
def roundBy : RoundMode → Exact → Int
  | .halfAwayFromZero => roundHalfAway
  | .halfEven => roundHalfEven

/-- `rnd` (R15), under the configured tie rule. -/
def rnd (x : Exact) : Int := roundBy Config.roundMode x

/-- `clamp(v, lo, hi)` on integers (R15). -/
def clampInt (v lo hi : Int) : Int :=
  if v < lo then lo else if hi < v then hi else v

/-- `clamp(v, lo, hi)` on rationals (R15). -/
def clampNum (v lo hi : Exact) : Exact :=
  if v < lo then lo else if hi < v then hi else v

/-- `dot(w, (a, b, c))` (R15). -/
def dot (w v : Vec3) : Exact := w.x * v.x + w.y * v.y + w.z * v.z

/-- A byte as the unsigned number it stands for (30_encoding.md R75). -/
def num (b : Byte) : Exact := (b.toNat : Exact)

/-- The final narrowing of a clamped integer to a byte (R115, R129): the integer is within 0 to 255 at each use. -/
def toByte (v : Int) : Byte := BitVec.ofInt 8 v

/-- One component of the forward transform: scale, round, clamp (R104, R105). -/
def storeComponent (x : Exact) (hi : Int) : Byte :=
  toByte (clampInt (rnd (Config.scale * x)) 0 hi)

/-- Normalisation (R101): the channels divided by 255. -/
def normalise (p : Rgb) : Vec3 := ⟨num p.r / 255, num p.g / 255, num p.b / 255⟩

/-- `RGB2YIQ` (R100) under the coefficient matrix `c`. -/
def rgb2yiq (c : Mat3) (p : Rgb) : Triplet :=
  let v := normalise p
  { y := storeComponent (dot c.row0 v) Config.yMax
    i := storeComponent (dot c.row1 v + Config.offI) Config.iMax
    q := storeComponent (dot c.row2 v + Config.offQ) Config.qMax }

/-- `MINV` (R122): the transposed cofactor matrix divided by the determinant. -/
def minv (a : Mat3) : Mat3 :=
  let d := a.det
  { row0 := ⟨(a.row1.y * a.row2.z - a.row1.z * a.row2.y) / d, (a.row0.z * a.row2.y - a.row0.y * a.row2.z) / d,
      (a.row0.y * a.row1.z - a.row0.z * a.row1.y) / d⟩
    row1 := ⟨(a.row1.z * a.row2.x - a.row1.x * a.row2.z) / d, (a.row0.x * a.row2.z - a.row0.z * a.row2.x) / d,
      (a.row0.z * a.row1.x - a.row0.x * a.row1.z) / d⟩
    row2 := ⟨(a.row1.x * a.row2.y - a.row1.y * a.row2.x) / d, (a.row0.y * a.row2.x - a.row0.x * a.row2.y) / d,
      (a.row0.x * a.row1.y - a.row0.y * a.row1.x) / d⟩ }

/-- Reverse scale (R121). -/
def unscale (t : Triplet) : Vec3 :=
  ⟨num t.y / 100, num t.i / 100 - Config.offI, num t.q / 100 - Config.offQ⟩

/-- Output conversion of one channel (R123): real clamp, scale by 255, round, integer clamp. -/
def channel (c : Exact) : Byte :=
  toByte (clampInt (rnd (255 * clampNum c 0 1)) 0 Config.chMax)

/-- `YIQ2RGB` (R120) under the coefficient matrix `c`; out-of-domain bytes are converted as they stand (R124). -/
def yiq2rgb (c : Mat3) (t : Triplet) : Rgb :=
  let v := unscale t
  { r := channel (dot (minv c).row0 v)
    g := channel (dot (minv c).row1 v)
    b := channel (dot (minv c).row2 v) }

end Sys2Proof.Machine
end

