-- ==== Sys2Proof/Decode.lean ====
section
/-! DEFINITION. The decoder of port items and formats (30_encoding.md R70, R72, R74, R76), total on every number and
rejecting by name, and the encoder written from the same layouts. A word is the item as a number, bit 0 the least
significant (R11). For the byte formats HEADER and TRIPLET byte k of the stream is bits 8k+7 to 8k (log 10). -/

namespace Sys2Proof

/-- Why a word is not an item of its format. The first three are the three named error causes of a container header
(43_deserializer.md R161 to R165). -/
inductive DecodeError where
  /-- magic or sentinel bytes differ from R71 -/
  | badConstant
  /-- the version byte is not 1 (R162) -/
  | badVersion
  /-- the method byte is neither 0 nor 1 (R163) -/
  | badMethod
  /-- a bit above the item's width is set (R74) -/
  | tooWide
  deriving DecidableEq, Repr

/-- The method a bit stands for (10_state.md R20). -/
def methodOfBit (b : BitVec 1) : Method :=
  if b = 1#1 then .smptec else .ntsc1953

/-- The method byte of a container header (30_encoding.md R71, R75). -/
def methodByte (m : Method) : Byte := m.bit.setWidth 8

/-- The pure operations' words `m`, then three bytes, most significant first: bits 24, 23:16, 15:8, 7:0. -/
def decodePure (mk : Method → Byte → Byte → Byte → Instr) (x : BitVec 25) : Instr :=
  mk (methodOfBit (x.extractLsb' 24 1)) (x.extractLsb' 16 8) (x.extractLsb' 8 8) (x.extractLsb' 0 8)

/-- `E_CMD` (R74): `m` = [64], `width` = [63:32], `height` = [31:0]. -/
def decodeECmd (x : BitVec 65) : Instr :=
  .encStart (methodOfBit (x.extractLsb' 64 1)) (x.extractLsb' 32 32) (x.extractLsb' 0 32)

/-- `E_PIX` (R74): `R` = [23:16], `G` = [15:8], `B` = [7:0]. -/
def decodeEPix (x : BitVec 24) : Instr :=
  .encPix (x.extractLsb' 16 8) (x.extractLsb' 8 8) (x.extractLsb' 0 8)

/-- `D_IN` (R74, R76): bit 8 selects DEC.BYTE or DEC.EOS; for DEC.EOS the low bits are ignored. -/
def decodeDIn (x : BitVec 9) : Instr :=
  if x.extractLsb' 8 1 = 1#1 then .decEos else .decByte (x.extractLsb' 0 8)

/-- FMT.HEADER (R70): magic at bytes 0 to 2, version 3, method 4, width 5 to 8, height 9 to 12, sentinel 13 to 16,
the multi-byte numbers little-endian. Checked in the order of 43_deserializer.md R160. -/
def decodeHeader (x : BitVec 136) : Except DecodeError Instr :=
  if x.extractLsb' 0 24 ≠ 0x514959#24 then .error .badConstant
  else if x.extractLsb' 24 8 ≠ Config.fmtVersion then .error .badVersion
  else if x.extractLsb' 33 7 ≠ 0#7 then .error .badMethod
  else if x.extractLsb' 104 32 ≠ 0x41544144#32 then .error .badConstant
  else .ok (.fmtHeader (methodOfBit (x.extractLsb' 32 1)) (x.extractLsb' 40 32) (x.extractLsb' 72 32))

/-- FMT.TRIPLET (R72): byte 0 is Y, byte 1 is I, byte 2 is Q. -/
def decodeTriplet (x : BitVec 24) : Instr :=
  .fmtTriplet (x.extractLsb' 0 8) (x.extractLsb' 8 8) (x.extractLsb' 16 8)

/-- The operation a word of a format stands for. An item of an event port has no bits (R74). -/
def decode (f : Format) (w : Nat) : Except DecodeError Instr :=
  if 2 ^ f.width ≤ w then .error .tooWide
  else
    match f with
    | .rgb2yiq => .ok (decodePure .rgb2yiq (BitVec.ofNat 25 w))
    | .yiq2rgb => .ok (decodePure .yiq2rgb (BitVec.ofNat 25 w))
    | .eCmd => .ok (decodeECmd (BitVec.ofNat 65 w))
    | .auto => .ok .encHdr
    | .ePix => .ok (decodeEPix (BitVec.ofNat 24 w))
    | .dCmd => .ok .decStart
    | .dIn => .ok (decodeDIn (BitVec.ofNat 9 w))
    | .rst => .ok .reset
    | .header => decodeHeader (BitVec.ofNat 136 w)
    | .triplet => .ok (decodeTriplet (BitVec.ofNat 24 w))

/-- The format whose items an operation arrives as (R76, R77). -/
def Instr.format : Instr → Format
  | .rgb2yiq .. => .rgb2yiq
  | .yiq2rgb .. => .yiq2rgb
  | .encStart .. => .eCmd
  | .encHdr => .auto
  | .encPix .. => .ePix
  | .decStart => .dCmd
  | .decByte .. => .dIn
  | .decEos => .dIn
  | .reset => .rst
  | .fmtHeader .. => .header
  | .fmtTriplet .. => .triplet

/-- The word of an operation, from the layouts of R70, R72 and R74; `++` puts its left operand above. DEC.EOS is
written with its ignored bits 0. -/
def encode : Instr → Nat
  | .rgb2yiq m r g b => (m.bit ++ r ++ g ++ b).toNat
  | .yiq2rgb m y i q => (m.bit ++ y ++ i ++ q).toNat
  | .encStart m w h => (m.bit ++ w ++ h).toNat
  | .encHdr => 0
  | .encPix r g b => (r ++ g ++ b).toNat
  | .decStart => 0
  | .decByte b => (0#1 ++ b).toNat
  | .decEos => (1#1 ++ 0#8).toNat
  | .reset => 0
  | .fmtHeader m w h => (0x41544144#32 ++ h ++ w ++ methodByte m ++ Config.fmtVersion ++ 0x514959#24).toNat
  | .fmtTriplet y i q => (q ++ i ++ y).toNat

/-- The format a bare word of `nbits` bits (a row's width in whole bytes, or exactly) is read as. Rows of one width
cannot be told apart by their bits (R76), so the first such row of the opcode table is taken. Log 10. -/
def tableFormat (nbits : Nat) : Option Format :=
  if nbits = 0 then some .auto
  else if nbits = 9 ∨ nbits = 16 then some .dIn
  else if nbits = 24 then some .ePix
  else if nbits = 25 ∨ nbits = 32 then some .rgb2yiq
  else if nbits = 65 ∨ nbits = 72 then some .eCmd
  else if nbits = 136 then some .header
  else none

/-- The bytes of an `n`-byte number in the opposite order. -/
def reverseBytes : Nat → Nat → Nat
  | 0, _ => 0
  | n + 1, w => w % 256 * 256 ^ n + reverseBytes n (w / 256)

/-- A bare word as an item of its format. A port has no wires for the bits above its item's width, so they are dropped.
The table writes FMT.HEADER's match with the first byte of the stream most significant: such a number, told by the magic's
0x59 at its top, is turned to this file's order. Log 10. -/
def tableItem (f : Format) (w : Nat) : Nat :=
  let v := w % 2 ^ f.width
  if f = .header ∧ v / 2 ^ 128 = 0x59 then reverseBytes 17 v else v

/-- The operation read from a bare word numbered as the opcode table numbers it. -/
def decodeTableWord (nbits w : Nat) : Option Instr :=
  match tableFormat nbits with
  | none => none
  | some f =>
    match decode f (tableItem f w) with
    | .ok i => some i
    | .error _ => none

end Sys2Proof
end

