-- ==== Sys2Proof/Machine/Operands.lean ====
section
/-! DEFINITION. The operand forms of CORE: little-endian fields (20_memory.md R52, 30_encoding.md R75), the header
bytes `HB` (42_serializer.md R141), the 64-bit pixel count (10_state.md R30). -/

namespace Sys2Proof.Machine

/-- The bytes of a 32-bit field, least significant first (R52). -/
def leBytes (v : U32) : List Byte :=
  [v.extractLsb' 0 8, v.extractLsb' 8 8, v.extractLsb' 16 8, v.extractLsb' 24 8]

/-- `v[8j+7 : 8j] <- b` for j = 0 to 3 (43_deserializer.md R173), every other bit kept. -/
def setLeByte (v : U32) (j : Fin 4) (b : Byte) : U32 :=
  match j with
  | 0 => v.extractLsb' 8 24 ++ b
  | 1 => v.extractLsb' 16 16 ++ b ++ v.extractLsb' 0 8
  | 2 => v.extractLsb' 24 8 ++ b ++ v.extractLsb' 0 16
  | 3 => b ++ v.extractLsb' 0 24

/-- `b0 + 2^8 b1 + 2^16 b2 + 2^24 b3` (R52). -/
def ofLeBytes (b0 b1 b2 b3 : Byte) : U32 := b3 ++ b2 ++ b1 ++ b0

/-- `zext_64(w) * zext_64(h)` (R30, R145, R173): exact. -/
def pixelCount (w h : U32) : U64 := zext64 w * zext64 h

/-- The 17 header bytes `HB(0..16)` (R141, R71). -/
def headerBytes (m : Method) (w h : U32) : List Byte :=
  Config.magic ++ [Config.fmtVersion, methodByte m] ++ leBytes w ++ leBytes h ++ Config.sentinel

/-- `HB(k)` (R141); none for k above 16. -/
def headerByte (m : Method) (w h : U32) (k : Nat) : Option Byte := (headerBytes m w h)[k]?

/-- The three bytes of a triplet in stored order (R72, R53). -/
def tripletBytes (t : Triplet) : List Byte := [t.y, t.i, t.q]

end Sys2Proof.Machine
end

