-- ==== Sys2Proof/Machine/State.lean ====
section
/-! DEFINITION. The state of CORE as plain data: the registers of the two units (10_state.md R28, R29), the items
waiting on the input ports and the histories of the output streams (R34), the reasons a step can stop, and the state
after power-on (70_reset_and_hazards.md R241). -/

namespace Sys2Proof.Machine

/-- `e_phase` (R28). -/
inductive EPhase where
  | idle
  | hdr
  | data
  | done
  deriving DecidableEq, Repr

/-- The 2-bit encoding of `e_phase` (R28). -/
def EPhase.bits : EPhase → BitVec 2
  | .idle => 0#2
  | .hdr => 1#2
  | .data => 2#2
  | .done => 3#2

/-- `d_phase` (R29). -/
inductive DPhase where
  | idle
  | hdr
  | data
  | done
  | err
  deriving DecidableEq, Repr

/-- The 3-bit encoding of `d_phase` (R29); 5 to 7 never occur. -/
def DPhase.bits : DPhase → BitVec 3
  | .idle => 0#3
  | .hdr => 1#3
  | .data => 2#3
  | .done => 3#3
  | .err => 4#3

/-- The registers of unit ENC (R28). -/
structure Enc where
  /-- `e_phase` -/
  phase : EPhase
  /-- `e_method` -/
  method : Method
  /-- `e_width` -/
  width : U32
  /-- `e_height` -/
  height : U32
  /-- `e_off`: offset of the next header byte to emit -/
  off : BitVec 5
  /-- `e_rem`: pixels still to be accepted -/
  rem : U64
  deriving DecidableEq, Repr

/-- The registers of unit DEC (R29). -/
structure Dec where
  /-- `d_phase` -/
  phase : DPhase
  /-- `d_off`: container offset of the next header byte expected -/
  off : BitVec 5
  /-- `d_method` -/
  method : Method
  /-- `d_width` -/
  width : U32
  /-- `d_height` -/
  height : U32
  /-- `d_rem`: triplets still to be read -/
  rem : U64
  /-- `d_lane` -/
  lane : Lane
  /-- `d_y` -/
  y : Byte
  /-- `d_i` -/
  i : Byte
  /-- `d_err`: error code of 60_exceptions.md R210; 0 = none -/
  err : BitVec 3
  deriving DecidableEq, Repr

/-- A word for one of the four rows of the opcode table that have no port (the model's own, log 10). -/
inductive Call where
  | rgb2yiq (w : BitVec 25)
  | yiq2rgb (w : BitVec 25)
  | header (w : BitVec 136)
  | triplet (w : BitVec 24)
  deriving DecidableEq, Repr

/-- Whose operation moves next: a port, the autonomous ENC.HDR, or the model's own call queue (log 3). -/
inductive Turn where
  | rst
  | eCmd
  | eHdr
  | ePix
  | dCmd
  | dIn
  | call
  deriving DecidableEq, Repr

/-- The items the host has offered and the unit has not yet taken, oldest first, per input port (R34, 20_memory.md
R50, 30_encoding.md R74); an event port without payload is the number of pending events. `calls` and `turns` are the
model's own. -/
structure Inputs where
  /-- `E_CMD` -/
  eCmd : List (BitVec 65)
  /-- `E_PIX` -/
  ePix : List (BitVec 24)
  /-- `D_CMD` -/
  dCmd : Nat
  /-- `D_IN` -/
  dIn : List (BitVec 9)
  /-- `RST` -/
  rst : Nat
  /-- words of the rows without a port (log 10) -/
  calls : List Call
  /-- the order in which operations move (log 3) -/
  turns : List Turn
  deriving DecidableEq, Repr

/-- What a pure operation returned: RGB2YIQ a triplet (R100), YIQ2RGB a pixel (R120). -/
inductive PureResult where
  | triplet (t : Triplet)
  | pixel (p : Rgb)
  deriving DecidableEq, Repr

/-- The state of CORE. -/
structure State where
  enc : Enc
  dec : Dec
  inp : Inputs
  /-- `E_OUT`: every byte ever emitted, in order (R34) -/
  eOut : List Byte
  /-- `D_PIX`: every pixel ever emitted, in order (R34) -/
  dPix : List Rgb
  /-- the values the pure operations returned, in order (the model's own, log 8) -/
  results : List PureResult
  /-- how many free values RESET has drawn (the model's own, log 5) -/
  draws : Nat
  deriving DecidableEq, Repr

/-- Why the machine stops with a fault. CORE itself has no fault: its errors are next states (60_exceptions.md R214).
Both reasons check values that R28 and R29 say never occur. -/
inductive Fault where
  /-- ENC.HDR found `e_off` above 16, where there is no `HB(e_off)` (R28, 42_serializer.md R141). Unreachable from
  reset; safe: the model stops where the spec gives no meaning. -/
  | encOffset
  /-- DEC.BYTE in `D_HDR` found `d_off` above 16, which no case of 43_deserializer.md R173 covers (R29). Unreachable
  from reset; safe, as above. -/
  | decOffset
  deriving DecidableEq, Repr

/-- Why the machine has no meaning for what it was given. -/
inductive Refusal where
  /-- `exec`'s arm of an instruction that has no meaning yet; no arm raises it now. Safe. -/
  | notModelled (mnemonic : String)
  /-- Fetch, for a word in `calls` that is no encoding of its row (FMT.HEADER bytes that differ from 30_encoding.md
  R70); the ports' own items are all legal (R80). Safe: such bytes reach DEC through `D_IN`. -/
  | illFormedItem (why : DecodeError)
  deriving DecidableEq, Repr

/-- The outcome of an operation or of a step. -/
abbrev Outcome := Host.Outcome State Fault Refusal

/-- ENC at power-on (R241): `E_IDLE`; the unspecified registers hold 0. DESIGN CHOICE, log 4. -/
def Enc.reset : Enc :=
  { phase := .idle, method := .ntsc1953, width := 0#32, height := 0#32, off := 0#5, rem := 0#64 }

/-- DEC at power-on (R241): `D_IDLE`, `d_err` 0; the unspecified registers hold 0. DESIGN CHOICE, log 4. -/
def Dec.reset : Dec :=
  { phase := .idle, off := 0#5, method := .ntsc1953, width := 0#32, height := 0#32, rem := 0#64, lane := .y,
    y := 0#8, i := 0#8, err := 0#3 }

/-- Nothing offered on any port. Log 12. -/
def Inputs.none : Inputs :=
  { eCmd := [], ePix := [], dCmd := 0, dIn := [], rst := 0, calls := [], turns := [] }

/-- The machine right after power-on, which R241 treats as a RESET: nothing offered, nothing emitted. -/
def State.reset : State :=
  { enc := Enc.reset, dec := Dec.reset, inp := Inputs.none, eOut := [], dPix := [], results := [], draws := 0 }

end Sys2Proof.Machine
end

