-- ==== Sys2Proof/Machine/Ops.lean ====
section
/-! DEFINITION. The named operations over the registers and streams that the meanings share: emitting, the error entry
of 60_exceptions.md R214 and the return from it (R216), and the registers RESET leaves unspecified
(70_reset_and_hazards.md R240). -/

namespace Sys2Proof.Machine

/-- An operation that is not enabled has no step (00_scope.md R16): nothing changes. Log 2. -/
def noStep (s : State) : Outcome := .next s

/-- Write the registers of ENC. -/
def State.setEnc (s : State) (e : Enc) : State := { s with enc := e }

/-- Write the registers of DEC. -/
def State.setDec (s : State) (d : Dec) : State := { s with dec := d }

/-- `Emit(E_OUT, b)` for each byte in order (20_memory.md R50). -/
def State.emitBytes (s : State) (bs : List Byte) : State := { s with eOut := s.eOut ++ bs }

/-- `Emit(D_PIX, p)` (R50). -/
def State.emitPixel (s : State) (p : Rgb) : State := { s with dPix := s.dPix ++ [p] }

/-- Record what a pure operation returned (log 8). -/
def State.emitResult (s : State) (r : PureResult) : State := { s with results := s.results ++ [r] }

/-- `code(Kind)` (R210). -/
def errCode : ErrKind → BitVec 3
  | .unreadableImage => 1#3
  | .invalidFormat => 2#3
  | .unsupportedVersion => 3#3
  | .invalidMethod => 4#3
  | .truncatedData => 5#3
  | .unsupportedFormat => 6#3
  | .ioFailure => 7#3

/-- The kind a code of `d_err` stands for (R210); 0 is no error. -/
def errKind (c : BitVec 3) : Option ErrKind :=
  if c = 1#3 then some .unreadableImage
  else if c = 2#3 then some .invalidFormat
  else if c = 3#3 then some .unsupportedVersion
  else if c = 4#3 then some .invalidMethod
  else if c = 5#3 then some .truncatedData
  else if c = 6#3 then some .unsupportedFormat
  else if c = 7#3 then some .ioFailure
  else none

/-- `raise Kind` (R214): `d_err` and `d_phase` are written, every other register of DEC is kept. -/
def Dec.raise (d : Dec) (k : ErrKind) : Dec := { d with err := errCode k, phase := .err }

/-- Error entry (R214): taking the exception `k`. Nothing is emitted and nothing else changes. -/
def State.raise (s : State) (k : ErrKind) : State := s.setDec (s.dec.raise k)

/-- The return from an error and the start of a transaction (R216, 43_deserializer.md R172): offset 0, `d_err` cleared,
`D_HDR`. -/
def Dec.start (d : Dec) : Dec := { d with off := 0#5, err := 0#3, phase := .hdr }

/-- ENC after RESET (R240): `E_IDLE`, the other five registers free values. -/
def Enc.afterReset (n : Nat) : Enc :=
  { phase := .idle
    method := Config.freeMethod n
    width := Config.freeBits 32 (n + 1)
    height := Config.freeBits 32 (n + 2)
    off := Config.freeBits 5 (n + 3)
    rem := Config.freeBits 64 (n + 4) }

/-- DEC after RESET (R240): `D_IDLE`, `d_err` 0, the other eight registers free values. -/
def Dec.afterReset (n : Nat) : Dec :=
  { phase := .idle
    off := Config.freeBits 5 n
    method := Config.freeMethod (n + 1)
    width := Config.freeBits 32 (n + 2)
    height := Config.freeBits 32 (n + 3)
    rem := Config.freeBits 64 (n + 4)
    lane := Config.freeLane (n + 5)
    y := Config.freeBits 8 (n + 6)
    i := Config.freeBits 8 (n + 7)
    err := 0#3 }

/-- RESET's effect on the state (R240): both units, nothing already emitted and nothing still offered. It draws 13 free
values. Log 5. -/
def State.afterReset (s : State) : State :=
  { s with enc := Enc.afterReset s.draws, dec := Dec.afterReset (s.draws + 5), draws := s.draws + 13 }

end Sys2Proof.Machine
end

