-- ==== Sys2Proof/Machine/Convert.lean ====
section
/-! DEFINITION. The meanings of the two pure operations RGB2YIQ (40_rgb2yiq.md R100) and YIQ2RGB (41_yiq2rgb.md R120).
They read and write no register; the value returned goes to the model's own history `results` (log 8). -/

namespace Sys2Proof.Machine

/-- `RGB2YIQ m, R, G, B` (R100). -/
def execRgb2yiq (m : Method) (r g b : Byte) (s : State) : Outcome :=
  .next (s.emitResult (.triplet (rgb2yiq (Config.coeff m).mat ⟨r, g, b⟩)))

/-- `YIQ2RGB m, Y, I, Q` (R120). -/
def execYiq2rgb (m : Method) (y i q : Byte) (s : State) : Outcome :=
  .next (s.emitResult (.pixel (yiq2rgb (Config.coeff m).mat ⟨y, i, q⟩)))

end Sys2Proof.Machine
end

