-- ==== Sys2Proof/Machine/Flags.lean ====
section
/-! DEFINITION. The status outputs (10_state.md R31), the level port D_HDR (43_deserializer.md R177) and the enabling
conditions of the operations (30_encoding.md R76). CORE has no arithmetic flags (R31). -/

namespace Sys2Proof.Machine

/-- `e_busy` (R31). -/
def eBusy (s : State) : Bool := s.enc.phase = .hdr || s.enc.phase = .data

/-- `e_done` (R31). -/
def eDone (s : State) : Bool := s.enc.phase = .done

/-- `d_busy` (R31). -/
def dBusy (s : State) : Bool := s.dec.phase = .hdr || s.dec.phase = .data

/-- `d_hdr_ok` (R31). -/
def dHdrOk (s : State) : Bool := s.dec.phase = .data || s.dec.phase = .done

/-- `d_done` (R31). -/
def dDone (s : State) : Bool := s.dec.phase = .done

/-- `d_fail` (R31). -/
def dFail (s : State) : Bool := s.dec.phase = .err

/-- The status output `d_err` (R31): the register. -/
def dErr (s : State) : BitVec 3 := s.dec.err

/-- The level port `D_HDR` as its 65-bit item `m width height` (30_encoding.md R74); it has no meaning outside
`d_hdr_ok` (R177), which is `none`. Log 14. -/
def dHdr (s : State) : Option (BitVec 65) :=
  if dHdrOk s then some (s.dec.method.bit ++ s.dec.width ++ s.dec.height) else none

/-- When an operation is enabled (R76). FMT.HEADER and FMT.TRIPLET are bytes for DEC.BYTE and are enabled as it is
(log 9). -/
def enabled (i : Instr) (s : State) : Bool :=
  match i with
  | .rgb2yiq .. => true
  | .yiq2rgb .. => true
  | .encStart .. => s.enc.phase = .idle || s.enc.phase = .done
  | .encHdr => s.enc.phase = .hdr
  | .encPix .. => s.enc.phase = .data
  | .decStart => s.dec.phase = .idle || s.dec.phase = .done || s.dec.phase = .err
  | .decByte .. => s.dec.phase ≠ .idle
  | .decEos => s.dec.phase ≠ .idle
  | .reset => true
  | .fmtHeader .. => s.dec.phase ≠ .idle
  | .fmtTriplet .. => s.dec.phase ≠ .idle

end Sys2Proof.Machine
end

