-- ==== Sys2Proof/Machine/Deserializer.lean ====
section
/-! DEFINITION. The meanings of unit DEC: DEC.START, DEC.BYTE, DEC.EOS (43_deserializer.md R172 to R176), and of the two
format rows as the bytes DEC.BYTE parses (30_encoding.md R77, R83; log 9). -/

namespace Sys2Proof.Machine

/-- `DEC.START` (R172). -/
def execDecStart (s : State) : Outcome :=
  if enabled .decStart s then .next (s.setDec s.dec.start) else noStep s

/-- A header byte that must equal `want` (R173): the registers unchanged, or the error. -/
def expectByte (b want : Byte) (k : ErrKind) (d : Dec) : Except ErrKind Dec :=
  if b = want then .ok d else .error k

/-- The case of R173 for the current `d_off`: the check and the field written. None for an offset above 16. -/
def headerCase (b : Byte) (d : Dec) : Option (Except ErrKind Dec) :=
  match d.off.toNat with
  | 0 => some (expectByte b 0x59#8 .invalidFormat d)
  | 1 => some (expectByte b 0x49#8 .invalidFormat d)
  | 2 => some (expectByte b 0x51#8 .invalidFormat d)
  | 3 => some (expectByte b Config.fmtVersion .unsupportedVersion d)
  | 4 => some (if 1 < b.toNat then .error .invalidMethod else .ok { d with method := methodOfBit (b.extractLsb' 0 1) })
  | 5 => some (.ok { d with width := setLeByte d.width 0 b })
  | 6 => some (.ok { d with width := setLeByte d.width 1 b })
  | 7 => some (.ok { d with width := setLeByte d.width 2 b })
  | 8 => some (.ok { d with width := setLeByte d.width 3 b })
  | 9 => some (.ok { d with height := setLeByte d.height 0 b })
  | 10 => some (.ok { d with height := setLeByte d.height 1 b })
  | 11 => some (.ok { d with height := setLeByte d.height 2 b })
  | 12 => some (.ok { d with height := setLeByte d.height 3 b })
  | 13 => some (expectByte b 0x44#8 .invalidFormat d)
  | 14 => some (expectByte b 0x41#8 .invalidFormat d)
  | 15 => some (expectByte b 0x54#8 .invalidFormat d)
  | 16 => some (expectByte b 0x41#8 .invalidFormat d)
  | _ => none

/-- After a good header byte (R173): the next offset, or the end of the header. -/
def Dec.afterHeaderByte (d : Dec) : Dec :=
  if d.off.toNat < 16 then { d with off := d.off + 1#5 }
  else
    { d with
      rem := pixelCount d.width d.height
      lane := .y
      phase := if pixelCount d.width d.height = 0#64 then .done else .data }

/-- DEC.BYTE in `D_HDR` (R173). A `d_off` above 16 has no case (log 11). -/
def decHeaderByte (b : Byte) (s : State) : Outcome :=
  match headerCase b s.dec with
  | some (.ok d) => .next (s.setDec d.afterHeaderByte)
  | some (.error k) => .next (s.raise k)
  | none => .fault .decOffset

/-- The registers after a triplet is complete (R174). -/
def Dec.afterTriplet (d : Dec) : Dec :=
  { d with lane := .y, rem := d.rem - 1#64, phase := if d.rem - 1#64 = 0#64 then .done else d.phase }

/-- DEC.BYTE in `D_DATA` (R174). -/
def decDataByte (b : Byte) (s : State) : Outcome :=
  match s.dec.lane with
  | .y => .next (s.setDec { s.dec with y := b, lane := .i })
  | .i => .next (s.setDec { s.dec with i := b, lane := .q })
  | .q =>
    .next ((s.emitPixel (yiq2rgb (Config.coeff s.dec.method).mat ⟨s.dec.y, s.dec.i, b⟩)).setDec s.dec.afterTriplet)

/-- What DEC does with one byte, by phase (R173 to R175). -/
def decByteStep (b : Byte) (s : State) : Outcome :=
  match s.dec.phase with
  | .idle => noStep s
  | .hdr => decHeaderByte b s
  | .data => decDataByte b s
  | .done => .next s
  | .err => .next s

/-- `DEC.BYTE b` (R173 to R175). -/
def execDecByte (b : Byte) (s : State) : Outcome := decByteStep b s

/-- `DEC.EOS` (R176). -/
def execDecEos (s : State) : Outcome :=
  match s.dec.phase with
  | .idle => noStep s
  | .hdr => .next (s.raise (if s.dec.off.toNat < 3 then .invalidFormat else .truncatedData))
  | .data => .next (s.raise .truncatedData)
  | .done => .next s
  | .err => .next s

/-- `DEC.BYTES [b0, ...]` (R83): DEC.BYTE for each byte in order. -/
def decBytes : List Byte → State → Outcome
  | [], s => .next s
  | b :: bs, s =>
    match decByteStep b s with
    | .next t => decBytes bs t
    | .fault r => .fault r
    | .refused r => .refused r

/-- `FMT.HEADER` (R70): its 17 bytes, parsed by DEC. Log 9. -/
def execFmtHeader (m : Method) (w h : U32) (s : State) : Outcome := decBytes (headerBytes m w h) s

/-- `FMT.TRIPLET` (R72): its 3 bytes, parsed by DEC. Log 9. -/
def execFmtTriplet (y i q : Byte) (s : State) : Outcome := decBytes (tripletBytes ⟨y, i, q⟩) s

end Sys2Proof.Machine
end

