-- ==== Sys2Proof/Machine/Reset.lean ====
section
/-! DEFINITION. The meaning of RESET (70_reset_and_hazards.md R240). -/

namespace Sys2Proof.Machine

/-- `RESET` (R240), enabled in every state. -/
def execReset (s : State) : Outcome := .next s.afterReset

end Sys2Proof.Machine
end

