-- ==== Sys2Proof/Machine/Serializer.lean ====
section
/-! DEFINITION. The meanings of unit ENC: ENC.START, ENC.HDR, ENC.PIX (42_serializer.md R145 to R147). -/

namespace Sys2Proof.Machine

/-- `ENC.START m, w, h` (R145). -/
def execEncStart (m : Method) (w h : U32) (s : State) : Outcome :=
  if enabled (.encStart m w h) s then
    .next (s.setEnc { phase := .hdr, method := m, width := w, height := h, off := 0#5, rem := pixelCount w h })
  else noStep s

/-- The registers after a header byte has been emitted (R146). -/
def Enc.afterHeaderByte (e : Enc) : Enc :=
  if e.off.toNat < 16 then { e with off := e.off + 1#5 }
  else if e.rem = 0#64 then { e with phase := .done }
  else { e with phase := .data }

/-- `ENC.HDR` (R146). An `e_off` above 16 has no header byte (log 11). -/
def execEncHdr (s : State) : Outcome :=
  if enabled .encHdr s then
    match headerByte s.enc.method s.enc.width s.enc.height s.enc.off.toNat with
    | some b => .next ((s.emitBytes [b]).setEnc s.enc.afterHeaderByte)
    | none => .fault .encOffset
  else noStep s

/-- The registers after a pixel has been encoded (R147). -/
def Enc.afterPixel (e : Enc) : Enc :=
  { e with rem := e.rem - 1#64, phase := if e.rem - 1#64 = 0#64 then .done else e.phase }

/-- `ENC.PIX R, G, B` (R147). -/
def execEncPix (r g b : Byte) (s : State) : Outcome :=
  if enabled (.encPix r g b) s then
    .next ((s.emitBytes (tripletBytes (rgb2yiq (Config.coeff s.enc.method).mat ⟨r, g, b⟩))).setEnc s.enc.afterPixel)
  else noStep s

end Sys2Proof.Machine
end

