-- ==== Sys2Proof/Machine/Dispatch.lean ====
section
/-! DEFINITION. One arm per operation (30_encoding.md R76). -/

namespace Sys2Proof.Machine

def exec (i : Instr) (s : State) : Host.Outcome State Fault Refusal :=
  match i with
  | .rgb2yiq m r g b => Sys2Proof.Machine.execRgb2yiq m r g b s
  | .yiq2rgb m y j q => Sys2Proof.Machine.execYiq2rgb m y j q s
  | .encStart m w h => Sys2Proof.Machine.execEncStart m w h s
  | .encHdr => Sys2Proof.Machine.execEncHdr s
  | .encPix r g b => Sys2Proof.Machine.execEncPix r g b s
  | .decStart => Sys2Proof.Machine.execDecStart s
  | .decByte b => Sys2Proof.Machine.execDecByte b s
  | .decEos => Sys2Proof.Machine.execDecEos s
  | .reset => Sys2Proof.Machine.execReset s
  | .fmtHeader m w h => Sys2Proof.Machine.execFmtHeader m w h s
  | .fmtTriplet y j q => Sys2Proof.Machine.execFmtTriplet y j q s

end Sys2Proof.Machine
end

