-- ==== Sys2Proof/Machine/Fetch.lean ====
section
/-! DEFINITION. Which operation moves next and the item it takes: `Take(port)` (00_scope.md R13, 20_memory.md R50). An
item whose operation is not enabled is not taken (R16, 30_encoding.md R80). The order of moves is plain data in State
(log 3). -/

namespace Sys2Proof.Machine

/-- The word a turn would move: the oldest item of its port with its format; ENC.HDR needs no item. -/
def peek (t : Turn) (s : State) : Option (Format × Nat) :=
  match t with
  | .rst => if s.inp.rst = 0 then none else some (.rst, 0)
  | .eCmd => s.inp.eCmd.head?.map fun w => (.eCmd, w.toNat)
  | .eHdr => some (.auto, 0)
  | .ePix => s.inp.ePix.head?.map fun w => (.ePix, w.toNat)
  | .dCmd => if s.inp.dCmd = 0 then none else some (.dCmd, 0)
  | .dIn => s.inp.dIn.head?.map fun w => (.dIn, w.toNat)
  | .call =>
    match s.inp.calls with
    | [] => none
    | .rgb2yiq w :: _ => some (.rgb2yiq, w.toNat)
    | .yiq2rgb w :: _ => some (.yiq2rgb, w.toNat)
    | .header w :: _ => some (.header, w.toNat)
    | .triplet w :: _ => some (.triplet, w.toNat)

/-- `Take(port)`: remove the oldest item of the turn's port. -/
def take (t : Turn) (s : State) : State :=
  match t with
  | .rst => { s with inp := { s.inp with rst := s.inp.rst - 1 } }
  | .eCmd => { s with inp := { s.inp with eCmd := s.inp.eCmd.tail } }
  | .eHdr => s
  | .ePix => { s with inp := { s.inp with ePix := s.inp.ePix.tail } }
  | .dCmd => { s with inp := { s.inp with dCmd := s.inp.dCmd - 1 } }
  | .dIn => { s with inp := { s.inp with dIn := s.inp.dIn.tail } }
  | .call => { s with inp := { s.inp with calls := s.inp.calls.tail } }

/-- A turn can move: an item is there and its operation is enabled (an ill-formed one is there to be refused). -/
def ready (t : Turn) (s : State) : Bool :=
  match peek t s with
  | none => false
  | some (f, w) =>
    match decode f w with
    | .ok i => enabled i s
    | .error _ => true

/-- The order in which waiting operations move when State names no turn. DESIGN CHOICE, log 3. -/
def defaultOrder : List Turn := [.rst, .eCmd, .eHdr, .ePix, .dIn, .dCmd, .call]

/-- Whose turn it is: the one State names; with none named the first that can move, so that an enabled ENC.HDR is
eventually performed (20_memory.md R68); none if nothing can move. -/
def nextTurn (s : State) : Option Turn :=
  match s.inp.turns with
  | t :: _ => some t
  | [] => defaultOrder.find? fun t => ready t s

/-- The named turn is used up. -/
def popTurn (s : State) : State := { s with inp := { s.inp with turns := s.inp.turns.tail } }

/-- The state an operation runs in: its item taken if it is enabled, left with the host if not (R16). -/
def fetched (t : Turn) (i : Instr) (s : State) : State := if enabled i s then take t s else s

/-- Offer a word of a format ahead of everything waiting, and give it the next turn (log 12). -/
def offer (f : Format) (w : Nat) (s : State) : State :=
  let p := s.inp
  { s with
    inp :=
      match f with
      | .rgb2yiq => { p with calls := .rgb2yiq (BitVec.ofNat 25 w) :: p.calls, turns := .call :: p.turns }
      | .yiq2rgb => { p with calls := .yiq2rgb (BitVec.ofNat 25 w) :: p.calls, turns := .call :: p.turns }
      | .eCmd => { p with eCmd := BitVec.ofNat 65 w :: p.eCmd, turns := .eCmd :: p.turns }
      | .auto => { p with turns := .eHdr :: p.turns }
      | .ePix => { p with ePix := BitVec.ofNat 24 w :: p.ePix, turns := .ePix :: p.turns }
      | .dCmd => { p with dCmd := p.dCmd + 1, turns := .dCmd :: p.turns }
      | .dIn => { p with dIn := BitVec.ofNat 9 w :: p.dIn, turns := .dIn :: p.turns }
      | .rst => { p with rst := p.rst + 1, turns := .rst :: p.turns }
      | .header => { p with calls := .header (BitVec.ofNat 136 w) :: p.calls, turns := .call :: p.turns }
      | .triplet => { p with calls := .triplet (BitVec.ofNat 24 w) :: p.calls, turns := .call :: p.turns } }

end Sys2Proof.Machine
end

