-- ==== Sys2Proof/Machine/Step.lean ====
section
/-! DEFINITION. One step: the operation whose turn it is takes its item and is performed. With nothing that can move,
or no item on the port whose turn it is, the machine waits for the host (44_pipeline.md R199). -/

namespace Sys2Proof.Machine

/-- One step of CORE. -/
def step (s : State) : Host.Outcome State Fault Refusal :=
  match nextTurn s with
  | none => .next s
  | some t =>
    match peek t (popTurn s) with
    | none => .next (popTurn s)
    | some (f, w) =>
      match decode f w with
      | .ok i => exec i (fetched t i (popTurn s))
      | .error e => .refused (.illFormedItem e)

/-- `s` with a bare word of the opcode table offered on the port it arrives on, as the next to move (log 12). -/
def State.withFetchWord (s : State) (nbits w : Nat) : State :=
  match tableFormat nbits with
  | some f => offer f (tableItem f w) s
  | none => s

end Sys2Proof.Machine
end

