-- ==== Sys2Proof/Machine/Container.lean ====
section
/-! DEFINITION. The transaction-level functions over whole byte sequences: `MemRead` and `MemWrite` (00_scope.md R13),
`serialize` (42_serializer.md R140), `deserialize` (43_deserializer.md R160), `encode_image_core` and `decode_stream`
(44_pipeline.md R190, R191). They are what the streaming operations must agree with (R66). -/

namespace Sys2Proof.Machine

/-- The number a byte sequence holds, least significant byte first (20_memory.md R52). -/
def leValue : List Byte → Nat
  | [] => 0
  | b :: bs => b.toNat + 256 * leValue bs

/-- `MemRead(off, n)` (R13): undefined (none) when `off + n > len`. -/
def memRead (s : List Byte) (off n : Nat) : Option Nat :=
  if off + n ≤ s.length then some (leValue ((s.drop off).take n)) else none

/-- `MemWrite(off, n, v)` (R13): the bytes `v` at offsets `off` to `off + n - 1`; used with `off` at most the length. -/
def memWrite (s : List Byte) (off : Nat) (v : List Byte) : List Byte :=
  s.take off ++ v ++ s.drop (off + v.length)

/-- `serialize` (R140): the header, then every triplet, with nothing before, between or after (R143). -/
def serialize (x : YiqImage) : List Byte :=
  headerBytes x.method x.width x.height ++ x.data.flatMap tripletBytes

/-- The data section written triplet by triplet with `MemWrite(17+3p, 3, data[p])` (R140). -/
def writeData : List Byte → Nat → List Triplet → List Byte
  | s, _, [] => s
  | s, p, t :: ts => writeData (memWrite s (17 + 3 * p) (tripletBytes t)) (p + 1) ts

/-- `serialize` in the notation of R13, as the last sentence of R140 writes it. -/
def serializeByWrites (x : YiqImage) : List Byte :=
  let s := memWrite [] 0 Config.magic
  let s := memWrite s 3 [Config.fmtVersion]
  let s := memWrite s 4 [methodByte x.method]
  let s := memWrite s 5 (leBytes x.width)
  let s := memWrite s 9 (leBytes x.height)
  let s := memWrite s 13 Config.sentinel
  writeData s 0 x.data

/-- The bytes from `off` on must be `want`, compared one at a time in stream order (R160, R169): the stream's end and a
wrong byte each raise their kind. -/
def expectAt (s : List Byte) (onEnd onBad : ErrKind) : Nat → List Byte → Except ErrKind Unit
  | _, [] => .ok ()
  | off, b :: bs =>
    match s[off]? with
    | none => .error onEnd
    | some x => if x = b then expectAt s onEnd onBad (off + 1) bs else .error onBad

/-- The method byte at offset 4 (R160, R163). -/
def methodAt (s : List Byte) : Except ErrKind Method :=
  match s[4]? with
  | none => .error .truncatedData
  | some b => if 1 < b.toNat then .error .invalidMethod else .ok (methodOfBit (b.extractLsb' 0 1))

/-- Width and height at offsets 5 and 9 (R160, R164). `MemRead` is undefined exactly on a stream shorter than 13 bytes,
which is `TruncatedData` (R168). -/
def dimsAt (s : List Byte) : Except ErrKind (U32 × U32) :=
  match memRead s 5 4, memRead s 9 4 with
  | some w, some h => .ok (BitVec.ofNat 32 w, BitVec.ofNat 32 h)
  | _, _ => .error .truncatedData

/-- A byte sequence regrouped into triplets; an incomplete one at the end is no triplet (R166). -/
def triplets : List Byte → List Triplet
  | y :: i :: q :: rest => ⟨y, i, q⟩ :: triplets rest
  | _ => []

/-- The data section of `n` triplets (R160, R166); bytes beyond it are ignored (R167). -/
def dataAt (s : List Byte) (n : Nat) : Except ErrKind (List Triplet) :=
  if s.length < 17 + 3 * n then .error .truncatedData
  else .ok (triplets ((s.drop 17).take (3 * n)))

/-- The header part of `deserialize` (R160): method, width and height of a valid header. -/
def headerOf (s : List Byte) : Except ErrKind (Method × U32 × U32) := do
  expectAt s .invalidFormat .invalidFormat 0 Config.magic
  expectAt s .truncatedData .unsupportedVersion 3 [Config.fmtVersion]
  let m ← methodAt s
  let d ← dimsAt s
  expectAt s .truncatedData .invalidFormat 13 Config.sentinel
  return (m, d)

/-- `deserialize` (R160), the checks strictly in its order. -/
def deserialize (s : List Byte) : Except ErrKind YiqImage := do
  let (m, w, h) ← headerOf s
  let ts ← dataAt s (w.toNat * h.toNat)
  return { method := m, width := w, height := h, data := ts }

/-- The result of a decode (R191): the header's method and dimensions and the pixels in order. -/
structure DecodedImage where
  method : Method
  width : U32
  height : U32
  pixels : List Rgb
  deriving DecidableEq, Repr

/-- `encode_image_core` (R190) under a coefficient table. -/
def encodeImageCore (coeff : Method → Mat3) (m : Method) (w h : U32) (px : List Rgb) : List Byte :=
  serialize { method := m, width := w, height := h, data := px.map (rgb2yiq (coeff m)) }

/-- The second half of R191: every triplet converted with the method of the same header. -/
def convertImage (coeff : Method → Mat3) (x : YiqImage) : DecodedImage :=
  { method := x.method, width := x.width, height := x.height, pixels := x.data.map (yiq2rgb (coeff x.method)) }

/-- `decode_stream` (R191) under a coefficient table. -/
def decodeStream (coeff : Method → Mat3) (s : List Byte) : Except ErrKind DecodedImage :=
  (deserialize s).map (convertImage coeff)

end Sys2Proof.Machine
end

