-- ==== Sys2Proof/Machine/Programs.lean ====
section
/-! DEFINITION. Sequences of operations and the pseudo-operations of 30_encoding.md R83. -/

namespace Sys2Proof.Machine

/-- Perform operations one after the other (20_memory.md R61), stopping at a fault or a refusal. -/
def execList : List Instr → State → Outcome
  | [], s => .next s
  | i :: is, s =>
    match exec i s with
    | .next t => execList is t
    | .fault r => .fault r
    | .refused r => .refused r

/-- `ENC.IMAGE m, w, h, [p0, ...]` (R83). -/
def encImage (m : Method) (w h : U32) (px : List Rgb) : List Instr :=
  .encStart m w h :: (List.replicate 17 .encHdr ++ px.map fun p => .encPix p.r p.g p.b)

/-- `DEC.STREAM [b0, ...]` (R83). -/
def decStream (bs : List Byte) : List Instr :=
  .decStart :: (bs.map .decByte ++ [.decEos])

/-- An `E_PIX` item (R74). -/
def pixItem (p : Rgb) : BitVec 24 := p.r ++ p.g ++ p.b

/-- A `D_IN` item that carries a byte (R74). -/
def byteItem (b : Byte) : BitVec 9 := 0#1 ++ b

/-- `n` steps of the machine. -/
def steps : Nat → State → Outcome
  | 0, s => .next s
  | n + 1, s =>
    match step s with
    | .next t => steps n t
    | .fault r => .fault r
    | .refused r => .refused r

/-- The coefficient table of the machine (00_scope.md R9). -/
def coeffTable (m : Method) : Mat3 := (Config.coeff m).mat

end Sys2Proof.Machine
end

