-- ==== Sys2Proof/Safety.lean ====
section
/-! DEFINITION. The terms claims use: the invariants of 10_state.md R36, the committed result of a transaction
(20_memory.md R57, 44_pipeline.md R199), the round-trip bound (41_yiq2rgb.md R127), and the candidate coefficient sets of
93_implementation_defined.md G1, which no definition of the machine uses. -/

namespace Sys2Proof.Machine

/-- R36 (i) to (iii). -/
abbrev EncInv (e : Enc) : Prop :=
  (e.phase = .hdr → e.off.toNat ≤ 16 ∧ e.rem.toNat = e.width.toNat * e.height.toNat) ∧
  (e.phase = .data → 1 ≤ e.rem.toNat ∧ e.rem.toNat ≤ e.width.toNat * e.height.toNat) ∧
  (e.phase = .done → e.rem.toNat = 0)

/-- R36 (iv) to (vii); that `d_lane` is 0, 1 or 2 is in its type. -/
abbrev DecInv (d : Dec) : Prop :=
  (d.phase = .hdr → d.off.toNat ≤ 16 ∧ d.err = 0#3) ∧
  (d.phase = .data → 1 ≤ d.rem.toNat ∧ d.rem.toNat ≤ d.width.toNat * d.height.toNat ∧ d.err = 0#3) ∧
  (d.phase = .done → d.rem.toNat = 0 ∧ d.err = 0#3) ∧
  (d.phase = .err ↔ d.err ≠ 0#3) ∧
  (d.phase = .err → d.err = 2#3 ∨ d.err = 3#3 ∨ d.err = 4#3 ∨ d.err = 5#3)

/-- The invariants of R36, of both units. -/
abbrev Inv (s : State) : Prop := EncInv s.enc ∧ DecInv s.dec

/-- The result of a finished ENC run (R199): the bytes emitted since `start`; none while the run is not over. -/
def encResult (start s : State) : Option (List Byte) :=
  if s.enc.phase = .done then some (s.eOut.drop start.eOut.length) else none

/-- The result of a finished DEC run (R199, R57): in `D_DONE` the header and the pixels emitted since `start`, in
`D_ERR` the error and nothing else (60_exceptions.md R215); none while the run is not over. -/
def decResult (start s : State) : Option (Except ErrKind DecodedImage) :=
  match s.dec.phase with
  | .done =>
    some (.ok { method := s.dec.method, width := s.dec.width, height := s.dec.height,
                pixels := s.dPix.drop start.dPix.length })
  | .err => (errKind s.dec.err).map .error
  | _ => none

/-- The operations of unit ENC (30_encoding.md R76). -/
def ofEnc : Instr → Bool
  | .encStart .. => true
  | .encHdr => true
  | .encPix .. => true
  | _ => false

/-- The operations of unit DEC (R76), and the two format rows, whose bytes DEC parses (log 9). -/
def ofDec : Instr → Bool
  | .decStart => true
  | .decByte .. => true
  | .decEos => true
  | .fmtHeader .. => true
  | .fmtTriplet .. => true
  | _ => false

/-- The byte that must stand at each constant offset of a header (R70, R71). -/
def headerConstant (k : Nat) : Option Byte :=
  [some 0x59#8, some 0x49#8, some 0x51#8, some 0x01#8, none, none, none, none, none, none, none, none, none,
    some 0x44#8, some 0x41#8, some 0x54#8, some 0x41#8].getD k none

/-- A byte that is legal at header offset `k` (30_encoding.md R79). -/
def headerByteGood (k : Nat) (b : Byte) : Bool :=
  match headerConstant k with
  | some c => decide (b = c)
  | none => if k = 4 then decide (b.toNat ≤ 1) else true

/-- The error of an illegal byte at header offset `k` (R79, 60_exceptions.md R210). -/
def headerErr (k : Nat) : ErrKind :=
  if k = 3 then .unsupportedVersion else if k = 4 then .invalidMethod else .invalidFormat

/-- The ENC rows of the transition table (44_pipeline.md R200); an operation not enabled leaves the phase. -/
def encTarget (i : Instr) (e : Enc) : EPhase :=
  match i, e.phase with
  | .reset, _ => .idle
  | .encStart .., .idle => .hdr
  | .encStart .., .done => .hdr
  | .encHdr, .hdr => if e.off.toNat < 16 then .hdr else if 1 ≤ e.rem.toNat then .data else .done
  | .encPix .., .data => if 2 ≤ e.rem.toNat then .data else .done
  | _, p => p

/-- The DEC rows of the transition table (R200). -/
def decTarget (i : Instr) (d : Dec) : DPhase :=
  match i, d.phase with
  | .reset, _ => .idle
  | .decStart, .idle => .hdr
  | .decStart, .done => .hdr
  | .decStart, .err => .hdr
  | .decByte b, .hdr =>
    if headerByteGood d.off.toNat b then
      if d.off.toNat < 16 then .hdr else if 1 ≤ d.width.toNat * d.height.toNat then .data else .done
    else .err
  | .decByte _, .data => if d.lane = .q ∧ d.rem.toNat = 1 then .done else .data
  | .decEos, .hdr => .err
  | .decEos, .data => .err
  | _, p => p

/-- The product of two matrices. -/
def matMul (a b : Mat3) : Mat3 :=
  { row0 := ⟨dot a.row0 ⟨b.row0.x, b.row1.x, b.row2.x⟩, dot a.row0 ⟨b.row0.y, b.row1.y, b.row2.y⟩,
      dot a.row0 ⟨b.row0.z, b.row1.z, b.row2.z⟩⟩
    row1 := ⟨dot a.row1 ⟨b.row0.x, b.row1.x, b.row2.x⟩, dot a.row1 ⟨b.row0.y, b.row1.y, b.row2.y⟩,
      dot a.row1 ⟨b.row0.z, b.row1.z, b.row2.z⟩⟩
    row2 := ⟨dot a.row2 ⟨b.row0.x, b.row1.x, b.row2.x⟩, dot a.row2 ⟨b.row0.y, b.row1.y, b.row2.y⟩,
      dot a.row2 ⟨b.row0.z, b.row1.z, b.row2.z⟩⟩ }

/-- The identity matrix. -/
def matId : Mat3 := ⟨⟨1, 0, 0⟩, ⟨0, 1, 0⟩, ⟨0, 0, 1⟩⟩

/-- `RT_BOUND` (00_scope.md R10): a bound per channel, an argument of the property (log 21). -/
structure RtBound where
  r : Nat
  g : Nat
  b : Nat
  deriving DecidableEq, Repr

/-- How far two bytes are apart, in levels. -/
def levels (a b : Byte) : Nat := ((a.toNat : Int) - b.toNat).natAbs

/-- The approximate-inverse property (R127) of a coefficient matrix with a bound. -/
def RoundTripWithin (c : Mat3) (bound : RtBound) : Prop :=
  ∀ p : Rgb,
    levels (yiq2rgb c (rgb2yiq c p)).r p.r ≤ bound.r ∧
    levels (yiq2rgb c (rgb2yiq c p)).g p.g ≤ bound.g ∧
    levels (yiq2rgb c (rgb2yiq c p)).b p.b ≤ bound.b

/-- `CAND_NTSC1953` (G1). PRESUMED (general knowledge, not in the source), log 22. -/
def candNtsc1953 : Mat3 :=
  { row0 := ⟨2990 / 10000, 5870 / 10000, 1140 / 10000⟩
    row1 := ⟨5959 / 10000, -2746 / 10000, -3213 / 10000⟩
    row2 := ⟨2115 / 10000, -5227 / 10000, 3112 / 10000⟩ }

/-- `CAND_SMPTEC` (G1). PRESUMED (general knowledge, not in the source), log 22. -/
def candSmptec : Mat3 :=
  { row0 := ⟨3000 / 10000, 5900 / 10000, 1100 / 10000⟩
    row1 := ⟨5990 / 10000, -2773 / 10000, -3217 / 10000⟩
    row2 := ⟨2130 / 10000, -5251 / 10000, 3121 / 10000⟩ }

/-- A 3×3 integer matrix by rows: `A` of 40_rgb2yiq.md R113 and 41_yiq2rgb.md R130. -/
structure IntMat where
  a00 : Int
  a01 : Int
  a02 : Int
  a10 : Int
  a11 : Int
  a12 : Int
  a20 : Int
  a21 : Int
  a22 : Int
  deriving DecidableEq, Repr

/-- `COEFF(m) = A / 10000` (R113). -/
def IntMat.coeff (a : IntMat) : Mat3 :=
  { row0 := ⟨a.a00 / 10000, a.a01 / 10000, a.a02 / 10000⟩
    row1 := ⟨a.a10 / 10000, a.a11 / 10000, a.a12 / 10000⟩
    row2 := ⟨a.a20 / 10000, a.a21 / 10000, a.a22 / 10000⟩ }

end Sys2Proof.Machine
end

