-- ==== Sys2Proof/WellFormed.lean ====
section
/-! DEFINITION. The checks the spec makes on data: stored triplets (10_state.md R23), images (R24) and coefficient sets
(00_scope.md R9, `Mat3.legal`). No operand of an operation has an illegal value (30_encoding.md R80): the operand types
hold exactly the legal ones, so `Instr.wf` refuses nothing. -/

namespace Sys2Proof

/-- The three independent domain bounds of a stored triplet (R23). -/
def Triplet.inDomain (t : Triplet) : Bool :=
  decide (t.y.toNat ≤ 100) && decide (t.i.toNat ≤ 119) && decide (t.q.toNat ≤ 105)

/-- `w · h` as an exact natural number (R24, R30). -/
def YiqImage.count (x : YiqImage) : Nat := x.width.toNat * x.height.toNat

/-- `len(data) = w · h` (R24): what the container needs of an image; triplets may lie outside their domains. -/
def YiqImage.sized (x : YiqImage) : Bool := decide (x.data.length = x.count)

/-- A valid `YiqImage` (R24): sized, and every triplet in its domain. The ranges of `m`, `w`, `h` are in the types. -/
def YiqImage.valid (x : YiqImage) : Bool := x.sized && x.data.all Triplet.inDomain

/-- Every operand value of every operation is legal (R80; R172, R146, R240 have no operands; R70 and R75 allow both
methods and every width and height; R72 and R79 every triplet). -/
def Instr.wf : Instr → Bool
  | .rgb2yiq .. => true
  | .yiq2rgb .. => true
  | .encStart .. => true
  | .encHdr => true
  | .encPix .. => true
  | .decStart => true
  | .decByte .. => true
  | .decEos => true
  | .reset => true
  | .fmtHeader .. => true
  | .fmtTriplet .. => true

end Sys2Proof
end

