-- ==== Sys2Proof/Certificates/Slice0/Obligations.lean ====
section
/-! DEFINITION. The statements about CORE for the provers. Each docstring names the rule of spec/ it formalises; where a
clause rests on a choice of the model, it names the log entry. -/

open Sys2Proof Sys2Proof.Machine

/-! Encodings -/

/-- 30_encoding.md R70, R72, R74, R76: decoding the word of any well-formed operation, as an item of the format it
arrives as, gives the operation back, at every operand value. The words of the four rows without a port are numbered
as log 10 says. -/
def Obligations.DecodeEncodeRoundTrip : Prop :=
  ∀ i : Instr, i.wf = true → decode i.format (encode i) = .ok i

/-- R74, R76: a word that decodes is an item of the format of its operation, and is the word of that operation; only
DEC.EOS has several words, the 256 with bit 8 set, whose low bits are ignored (R74). -/
def Obligations.EncodeDecodeRoundTrip : Prop :=
  ∀ (f : Format) (w : Nat) (i : Instr), decode f w = .ok i →
    i.format = f ∧ (i ≠ .decEos → encode i = w) ∧ (i = .decEos → 256 ≤ w ∧ w < 512)

/-- Sanity: words written out from R70, R72 and R74 decode to the operations they stand for (95_test_vectors.md programs
P1, P2, P5 and section 2.6). -/
def Obligations.SampleWordsDecode : Prop :=
  decode .eCmd 0x10000000100000001 = .ok (.encStart .smptec 1#32 1#32) ∧
  decode .ePix 0xFF0000 = .ok (.encPix 0xFF#8 0x00#8 0x00#8) ∧
  decode .dIn 0x059 = .ok (.decByte 0x59#8) ∧
  decode .dIn 0x100 = .ok .decEos ∧
  decode .rgb2yiq 0x1C86432 = .ok (.rgb2yiq .smptec 0xC8#8 0x64#8 0x32#8) ∧
  decode .header 0x4154414400000001000000020101514959 = .ok (.fmtHeader .smptec 2#32 1#32) ∧
  decode .triplet 0x343C00 = .ok (.fmtTriplet 0x00#8 0x3C#8 0x34#8)

/-- R74 (`D_IN`), R76: bit 8 of a symbol tells DEC.BYTE, whose byte is the low eight bits, from DEC.EOS. -/
def Obligations.DInBit8SelectsOperation : Prop :=
  ∀ x : BitVec 9,
    decode .dIn x.toNat = .ok (if x.getLsbD 8 then .decEos else .decByte (x.setWidth 8))

/-! Steps, enabling, reset, invariants -/

/-- A step performs the operation whose turn it is: the waiting word is decoded, its item is taken if the operation is
enabled and left with the host if not (00_scope.md R16), the turn is used up, and the rest is `exec`. The choice of the
turn is the model's (log 3). -/
def Obligations.StepRunsDecodedOperation : Prop :=
  ∀ (s : State) (t : Turn) (f : Format) (w : Nat) (i : Instr),
    nextTurn s = some t → peek t (popTurn s) = some (f, w) → decode f w = .ok i →
    step s = exec i (if enabled i (popTurn s) then take t (popTurn s) else popTurn s)

/-- R16, 30_encoding.md R80: an item whose operation is not enabled is not taken: no register, no stream and no waiting
item changes; only the turn is used up. That a turn without a step is a next state is the model's choice (log 2). -/
def Obligations.DisabledItemStaysWithHost : Prop :=
  ∀ (s : State) (t : Turn) (f : Format) (w : Nat) (i : Instr),
    nextTurn s = some t → peek t (popTurn s) = some (f, w) → decode f w = .ok i → enabled i (popTurn s) = false →
    step s = .next { s with inp := { s.inp with turns := s.inp.turns.tail } }

/-- R16: an operation that is not enabled has no step; in the model it leaves the state as it is (log 2). -/
def Obligations.DisabledOperationChangesNothing : Prop :=
  ∀ (i : Instr) (s : State), enabled i s = false → exec i s = .next s

/-- The enabling column of R76, and for the two format rows that of DEC.BYTE (log 9). -/
def Obligations.EnabledExactlyInItsPhases : Prop :=
  ∀ (s : State) (m : Method) (a b c : Byte) (w h : U32),
    (enabled (.rgb2yiq m a b c) s = true) ∧
    (enabled (.yiq2rgb m a b c) s = true) ∧
    (enabled (.encStart m w h) s = true ↔ s.enc.phase = .idle ∨ s.enc.phase = .done) ∧
    (enabled .encHdr s = true ↔ s.enc.phase = .hdr) ∧
    (enabled (.encPix a b c) s = true ↔ s.enc.phase = .data) ∧
    (enabled .decStart s = true ↔ s.dec.phase = .idle ∨ s.dec.phase = .done ∨ s.dec.phase = .err) ∧
    (enabled (.decByte a) s = true ↔ s.dec.phase ≠ .idle) ∧
    (enabled .decEos s = true ↔ s.dec.phase ≠ .idle) ∧
    (enabled .reset s = true) ∧
    (enabled (.fmtHeader m w h) s = true ↔ s.dec.phase ≠ .idle) ∧
    (enabled (.fmtTriplet a b c) s = true ↔ s.dec.phase ≠ .idle)

/-- 20_memory.md R68: with no turn named and no RESET waiting, an open header goes on by itself: 17 steps emit exactly the
header and leave `E_HDR`, whatever else is offered. The default order of turns is the model's (log 3). -/
def Obligations.HeaderProgressesByItself : Prop :=
  ∀ s : State, s.inp.turns = [] → s.inp.rst = 0 → s.enc.phase = .hdr → s.enc.off = 0#5 →
    ∃ t, steps 17 s = .next t ∧
      t.eOut = s.eOut ++ headerBytes s.enc.method s.enc.width s.enc.height ∧
      t.enc.phase = (if s.enc.rem.toNat = 0 then .done else .data) ∧
      t.enc.rem = s.enc.rem ∧ t.dec = s.dec ∧ t.inp = s.inp ∧ t.dPix = s.dPix

/-- 70_reset_and_hazards.md R241: the phases, `d_err` and the status outputs right after power-on, with nothing emitted.
The other registers are unspecified there; their value in `State.reset` is the model's (log 4) and is not stated. -/
def Obligations.PowerOnState : Prop :=
  State.reset.enc.phase = .idle ∧ State.reset.dec.phase = .idle ∧ State.reset.dec.err = 0#3 ∧
  State.reset.eOut = [] ∧ State.reset.dPix = [] ∧
  eBusy State.reset = false ∧ eDone State.reset = false ∧ dBusy State.reset = false ∧
  dHdrOk State.reset = false ∧ dDone State.reset = false ∧ dFail State.reset = false

/-- R240: RESET, from any state, makes both units idle, clears `d_err` and every status output, and changes no stream;
nothing is said of the other registers, which become unspecified (log 5). -/
def Obligations.ResetMakesUnitsIdle : Prop :=
  ∀ s : State, ∃ t, exec .reset s = .next t ∧
    t.enc.phase = .idle ∧ t.dec.phase = .idle ∧ t.dec.err = 0#3 ∧
    t.eOut = s.eOut ∧ t.dPix = s.dPix ∧ t.results = s.results ∧ t.inp = s.inp ∧
    eBusy t = false ∧ eDone t = false ∧ dBusy t = false ∧ dHdrOk t = false ∧ dDone t = false ∧ dFail t = false

/-- 10_state.md R36 holds at power-on. -/
def Obligations.InvariantAtReset : Prop := Inv State.reset

/-- R36: every step keeps the invariants of both units. -/
def Obligations.StepKeepsInvariant : Prop :=
  ∀ s t : State, Inv s → step s = .next t → Inv t

/-- 60_exceptions.md R211 (no arithmetic exception, no access fault, no illegal-operation fault): where the invariants of
R36 hold, no step ends in a fault. -/
def Obligations.InvariantStatesNeverFault : Prop :=
  ∀ (s : State) (r : Fault), Inv s → step s ≠ .fault r

/-- 10_state.md R31: the status outputs as functions of the phases; `d_err` is 0 when `d_phase` is not `D_ERR`, in the
states where R36 holds. -/
def Obligations.StatusOutputsFollowPhases : Prop :=
  ∀ s : State,
    (eBusy s = true ↔ s.enc.phase = .hdr ∨ s.enc.phase = .data) ∧
    (eDone s = true ↔ s.enc.phase = .done) ∧
    (dBusy s = true ↔ s.dec.phase = .hdr ∨ s.dec.phase = .data) ∧
    (dHdrOk s = true ↔ s.dec.phase = .data ∨ s.dec.phase = .done) ∧
    (dDone s = true ↔ s.dec.phase = .done) ∧
    (dFail s = true ↔ s.dec.phase = .err) ∧
    (Inv s → (dErr s ≠ 0#3 ↔ dFail s = true))

/-- 44_pipeline.md R200: the complete transition relation of the two units under the nine operations, with the counters
the table names and its rows of operations that are not enabled. An enabled operation moves no phase in any other way. -/
def Obligations.PhaseTransitionTable : Prop :=
  (∀ (i : Instr) (s t : State), Inv s →
    (∀ m w h, i ≠ .fmtHeader m w h) → (∀ y j q, i ≠ .fmtTriplet y j q) → enabled i s = true → exec i s = .next t →
    t.enc.phase = encTarget i s.enc ∧ t.dec.phase = decTarget i s.dec ∧
    (i = .encHdr → s.enc.off.toNat < 16 → t.enc.off.toNat = s.enc.off.toNat + 1) ∧
    (∀ r g b, i = .encPix r g b → t.enc.rem.toNat = s.enc.rem.toNat - 1) ∧
    (i = .decStart → t.dec.off = 0#5) ∧
    (∀ b, i = .decByte b → s.dec.phase = .hdr → s.dec.off.toNat < 16 → headerByteGood s.dec.off.toNat b = true →
      t.dec.off.toNat = s.dec.off.toNat + 1)) ∧
  (∀ (s : State) (m : Method) (w h : U32) (a b c : Byte),
    (s.enc.phase = .hdr ∨ s.enc.phase = .data → enabled (.encStart m w h) s = false) ∧
    (s.enc.phase ≠ .hdr → enabled .encHdr s = false) ∧
    (s.enc.phase = .idle ∨ s.enc.phase = .hdr ∨ s.enc.phase = .done → enabled (.encPix a b c) s = false) ∧
    (s.dec.phase = .hdr ∨ s.dec.phase = .data → enabled .decStart s = false) ∧
    (s.dec.phase = .idle → enabled (.decByte a) s = false ∧ enabled .decEos s = false))

/-! Independence of the units -/

/-- 44_pipeline.md R195, 10_state.md R35: an ENC operation leaves every register and output of DEC unchanged, a DEC
operation those of ENC; neither touches an input port, the pure operations' results or the free values. -/
def Obligations.UnitsShareNothing : Prop :=
  ∀ (i : Instr) (s t : State), exec i s = .next t →
    (ofEnc i = true → t.dec = s.dec ∧ t.dPix = s.dPix ∧ t.inp = s.inp ∧ t.results = s.results ∧ t.draws = s.draws) ∧
    (ofDec i = true → t.enc = s.enc ∧ t.eOut = s.eOut ∧ t.inp = s.inp ∧ t.results = s.results ∧ t.draws = s.draws)

/-- R195: an operation of ENC and one of DEC give the same result in either order. -/
def Obligations.UnitsCommute : Prop :=
  ∀ (i j : Instr) (s : State), Inv s → ofEnc i = true → ofDec j = true →
    execList [i, j] s = execList [j, i] s

/-! Unit ENC -/

/-- 42_serializer.md R145: ENC.START, from `E_IDLE` or `E_DONE`, writes all six registers, `e_rem` being the exact product,
and changes nothing else; in an open transaction it is not enabled. -/
def Obligations.EncStartOpensTransaction : Prop :=
  ∀ (m : Method) (w h : U32) (s : State),
    (s.enc.phase = .idle ∨ s.enc.phase = .done →
      ∃ n : U64, n.toNat = w.toNat * h.toNat ∧
        exec (.encStart m w h) s =
          .next { s with enc := { phase := .hdr, method := m, width := w, height := h, off := 0#5, rem := n } }) ∧
    (s.enc.phase = .hdr ∨ s.enc.phase = .data → enabled (.encStart m w h) s = false)

/-- R141: the 17 header bytes, width and height as numbers in base 256, least significant byte first. -/
def Obligations.HeaderBytesByOffset : Prop :=
  ∀ (m : Method) (w h : U32),
    (headerBytes m w h).map BitVec.toNat =
      [0x59, 0x49, 0x51, 0x01, (if m = .smptec then 0x01 else 0x00),
        w.toNat % 256, w.toNat / 2 ^ 8 % 256, w.toNat / 2 ^ 16 % 256, w.toNat / 2 ^ 24 % 256,
        h.toNat % 256, h.toNat / 2 ^ 8 % 256, h.toNat / 2 ^ 16 % 256, h.toNat / 2 ^ 24 % 256,
        0x44, 0x41, 0x54, 0x41]

/-- R146: ENC.HDR in `E_HDR` emits `HB(e_off)`, then advances `e_off`, or after offset 16 goes to `E_DONE` or `E_DATA`;
17 of them after ENC.START emit the whole header; in every other phase it is not enabled. -/
def Obligations.EncHdrEmitsHeaderByte : Prop :=
  (∀ s : State, s.enc.phase = .hdr → s.enc.off.toNat ≤ 16 →
    ∃ b, (headerBytes s.enc.method s.enc.width s.enc.height)[s.enc.off.toNat]? = some b ∧
      exec .encHdr s =
        .next { s with
          eOut := s.eOut ++ [b]
          enc :=
            if s.enc.off.toNat < 16 then { s.enc with off := s.enc.off + 1#5 }
            else if s.enc.rem = 0#64 then { s.enc with phase := .done }
            else { s.enc with phase := .data } }) ∧
  (∀ (s : State) (m : Method) (w h : U32), s.enc.phase = .idle ∨ s.enc.phase = .done →
    ∃ t, execList (.encStart m w h :: List.replicate 17 .encHdr) s = .next t ∧
      t.eOut = s.eOut ++ headerBytes m w h ∧
      t.enc.phase = (if w.toNat * h.toNat = 0 then .done else .data)) ∧
  (∀ s : State, s.enc.phase ≠ .hdr → enabled .encHdr s = false)

/-- R147: ENC.PIX in `E_DATA` emits the triplet of RGB2YIQ under `e_method` as three bytes Y, I, Q, and counts the pixel;
in every other phase it is not enabled. -/
def Obligations.EncPixEncodesPixel : Prop :=
  ∀ (r g b : Byte) (s : State),
    (s.enc.phase = .data →
      exec (.encPix r g b) s =
        .next { s with
          eOut := s.eOut ++
            [(rgb2yiq (Config.coeff s.enc.method).mat ⟨r, g, b⟩).y,
             (rgb2yiq (Config.coeff s.enc.method).mat ⟨r, g, b⟩).i,
             (rgb2yiq (Config.coeff s.enc.method).mat ⟨r, g, b⟩).q]
          enc := { s.enc with
            rem := s.enc.rem - 1#64
            phase := if s.enc.rem - 1#64 = 0#64 then .done else .data } }) ∧
    (s.enc.phase ≠ .data → enabled (.encPix r g b) s = false)

/-- R149: bytes appear on `E_OUT` only by ENC.HDR, one, and by ENC.PIX, three, and are only ever appended. -/
def Obligations.OnlyHdrAndPixEmitBytes : Prop :=
  ∀ (i : Instr) (s t : State), exec i s = .next t →
    ∃ bs, t.eOut = s.eOut ++ bs ∧
      bs.length =
        match i with
        | .encHdr => if s.enc.phase = .hdr then 1 else 0
        | .encPix .. => if s.enc.phase = .data then 3 else 0
        | _ => 0

/-- R150: ENC.IMAGE computes `serialize` of the converted pixels: it ends in `E_DONE`, and what it emitted is the container;
DEC and the ports are untouched. -/
def Obligations.EncAgreesWithSerialize : Prop :=
  ∀ (m : Method) (w h : U32) (px : List Rgb) (s : State),
    px.length = w.toNat * h.toNat → s.enc.phase = .idle ∨ s.enc.phase = .done →
    ∃ t, execList (encImage m w h px) s = .next t ∧ t.enc.phase = .done ∧
      t.eOut = s.eOut ++ serialize ⟨m, w, h, px.map (rgb2yiq (Config.coeff m).mat)⟩ ∧
      encResult s t = some (encodeImageCore coeffTable m w h px) ∧
      t.dec = s.dec ∧ t.dPix = s.dPix ∧ t.inp = s.inp

/-- R150 through `step`: the items of an image on `E_CMD` and `E_PIX`, taken in the order the turns name, give the container
in 18 + w·h steps and leave exactly the items and turns that were behind them. The turns are the model's (log 3). -/
def Obligations.StepsEncodeOfferedImage : Prop :=
  ∀ (m : Method) (w h : U32) (px : List Rgb) (s : State) (cmds : List (BitVec 65)) (pix : List (BitVec 24))
    (ts : List Turn),
    px.length = w.toNat * h.toNat → s.enc.phase = .idle ∨ s.enc.phase = .done →
    s.inp.eCmd = (m.bit ++ w ++ h) :: cmds → s.inp.ePix = px.map pixItem ++ pix →
    s.inp.turns = .eCmd :: (List.replicate 17 .eHdr ++ List.replicate px.length .ePix ++ ts) →
    ∃ t, steps (18 + px.length) s = .next t ∧
      encResult s t = some (encodeImageCore coeffTable m w h px) ∧ t.dec = s.dec ∧
      t.inp = { s.inp with eCmd := cmds, ePix := pix, turns := ts }

/-! The container functions -/

/-- R140: writing the fields of any image with `MemWrite` (00_scope.md R13) at their offsets, then each triplet at 17 + 3p, gives
`serialize`; for an image with width·height triplets it has length 17 + 3·width·height (30_encoding.md R73). -/
def Obligations.SerializeWritesEveryOffset : Prop :=
  (∀ x : YiqImage, serializeByWrites x = serialize x) ∧
  (∀ x : YiqImage, x.sized = true → (serialize x).length = 17 + 3 * (x.width.toNat * x.height.toNat))

/-- 43_deserializer.md R179: a serialized image is read back exactly, triplets outside their domains included. -/
def Obligations.ContainerRoundTrip : Prop :=
  ∀ x : YiqImage, x.sized = true → deserialize (serialize x) = .ok x

/-- R167: bytes beyond the data section change nothing; re-serializing what was read gives the prefix without them. -/
def Obligations.TrailingBytesIgnored : Prop :=
  (∀ (x : YiqImage) (extra : List Byte), x.sized = true → deserialize (serialize x ++ extra) = .ok x) ∧
  (∀ (s : List Byte) (x : YiqImage), deserialize s = .ok x →
    serialize x = s.take (17 + 3 * (x.width.toNat * x.height.toNat)))

/-- R180: a successful parse has exactly width·height triplets, and the stream holds the bytes of all of them: a short
stream is never padded. -/
def Obligations.NoWrongSizedResult : Prop :=
  ∀ (s : List Byte) (x : YiqImage), deserialize s = .ok x →
    x.data.length = x.width.toNat * x.height.toNat ∧
    17 + 3 * (x.width.toNat * x.height.toNat) ≤ s.length ∧
    x.data.flatMap tripletBytes = (s.drop 17).take (3 * (x.width.toNat * x.height.toNat))

/-- R171: with width or height 0 any stream that begins with a valid header succeeds, with no triplets, and width and height
are returned as read. -/
def Obligations.EmptyImageAccepted : Prop :=
  ∀ (m : Method) (w h : U32) (rest : List Byte), w = 0#32 ∨ h = 0#32 →
    deserialize (headerBytes m w h ++ rest) = .ok { method := m, width := w, height := h, data := [] }

/-- R181: the first offence decides. With every byte before offset `k` of the header legal: the end of the stream at `k`, or
an illegal byte at `k`, gives the error of the table; with the whole header legal, a stream shorter than its data section
is truncated and any longer one is accepted. -/
def Obligations.FirstOffenceDecides : Prop :=
  ∀ (s : List Byte) (k : Nat), k ≤ 17 → (∀ j < k, ∃ b, s[j]? = some b ∧ headerByteGood j b = true) →
    (k ≤ 16 → s.length = k →
      deserialize s = .error (if k < 3 then .invalidFormat else .truncatedData)) ∧
    (k ≤ 16 → ∀ b, s[k]? = some b → headerByteGood k b = false → deserialize s = .error (headerErr k)) ∧
    (k = 17 → s.length < 17 + 3 * (leValue ((s.drop 5).take 4) * leValue ((s.drop 9).take 4)) →
      deserialize s = .error .truncatedData) ∧
    (k = 17 → 17 + 3 * (leValue ((s.drop 5).take 4) * leValue ((s.drop 9).take 4)) ≤ s.length →
      ∃ x, deserialize s = .ok x)

/-- 44_pipeline.md R193, R194: decoding an encoded image succeeds with the same method and dimensions, and each pixel is the
conversion there and back of the pixel at its index, for every coefficient table. -/
def Obligations.DimensionsPreserved : Prop :=
  ∀ (coeff : Method → Mat3) (m : Method) (w h : U32) (px : List Rgb), px.length = w.toNat * h.toNat →
    decodeStream coeff (encodeImageCore coeff m w h px) =
      .ok { method := m, width := w, height := h,
            pixels := px.map fun p => yiq2rgb (coeff m) (rgb2yiq (coeff m) p) }

/-! Unit DEC -/

/-- R172: DEC.START, from `D_IDLE`, `D_DONE` or `D_ERR`, clears `d_off` and `d_err` and enters `D_HDR`; nothing else changes,
and the status outputs follow; in an open transaction it is not enabled. -/
def Obligations.DecStartOpensTransaction : Prop :=
  ∀ s : State,
    (s.dec.phase = .idle ∨ s.dec.phase = .done ∨ s.dec.phase = .err →
      ∃ t, exec .decStart s = .next t ∧
        t = { s with dec := { s.dec with off := 0#5, err := 0#3, phase := .hdr } } ∧
        dBusy t = true ∧ dDone t = false ∧ dFail t = false ∧ dHdrOk t = false) ∧
    (s.dec.phase = .hdr ∨ s.dec.phase = .data → enabled .decStart s = false)

/-- R173, 60_exceptions.md R214: in `D_HDR` a byte that is illegal at the current offset raises its error: `d_err` and
`d_phase` are written, nothing else changes and nothing is emitted. -/
def Obligations.DecByteRejectsBadHeaderByte : Prop :=
  ∀ (b : Byte) (s : State), s.dec.phase = .hdr → s.dec.off.toNat ≤ 16 →
    headerByteGood s.dec.off.toNat b = false →
    exec (.decByte b) s =
      .next { s with dec := { s.dec with
        err := if s.dec.off.toNat = 3 then 3#3 else if s.dec.off.toNat = 4 then 4#3 else 2#3
        phase := .err } }

/-- R173: in `D_HDR` a legal byte before offset 16 advances `d_off`; at offset 4 it writes `d_method`, at 5 to 8 the byte of
`d_width` at its little-endian place, at 9 to 12 that of `d_height`; every other bit, register and stream is kept. -/
def Obligations.DecByteAcceptsHeaderByte : Prop :=
  ∀ (b : Byte) (s : State), s.dec.phase = .hdr → s.dec.off.toNat < 16 →
    headerByteGood s.dec.off.toNat b = true →
    ∃ (m : Method) (w h : U32),
      exec (.decByte b) s =
        .next { s with dec := { s.dec with off := s.dec.off + 1#5, method := m, width := w, height := h } } ∧
      m = (if s.dec.off.toNat = 4 then (if b.getLsbD 0 then .smptec else .ntsc1953) else s.dec.method) ∧
      (∀ n < 32, w.getLsbD n =
        if 5 ≤ s.dec.off.toNat ∧ s.dec.off.toNat ≤ 8 ∧ n / 8 = s.dec.off.toNat - 5 then b.getLsbD (n % 8)
        else s.dec.width.getLsbD n) ∧
      (∀ n < 32, h.getLsbD n =
        if 9 ≤ s.dec.off.toNat ∧ s.dec.off.toNat ≤ 12 ∧ n / 8 = s.dec.off.toNat - 9 then b.getLsbD (n % 8)
        else s.dec.height.getLsbD n)

/-- R173: the 17th legal byte sets `d_rem` to the exact product and `d_lane` to 0, and enters `D_DONE` for an empty image and
`D_DATA` otherwise; nothing else changes. -/
def Obligations.DecByteCompletesHeader : Prop :=
  ∀ s : State, s.dec.phase = .hdr → s.dec.off.toNat = 16 →
    ∃ n : U64, n.toNat = s.dec.width.toNat * s.dec.height.toNat ∧
      exec (.decByte 0x41#8) s =
        .next { s with dec := { s.dec with
          rem := n
          lane := .y
          phase := if s.dec.width.toNat * s.dec.height.toNat = 0 then .done else .data } }

/-- R174: in `D_DATA` lanes 0 and 1 latch Y and I; lane 2 emits the pixel of YIQ2RGB under `d_method`, counts the triplet and
ends the transaction with the last one. No data byte is rejected (R170). -/
def Obligations.DecByteDataLanes : Prop :=
  ∀ (b : Byte) (s : State), s.dec.phase = .data →
    (s.dec.lane = .y → exec (.decByte b) s = .next { s with dec := { s.dec with y := b, lane := .i } }) ∧
    (s.dec.lane = .i → exec (.decByte b) s = .next { s with dec := { s.dec with i := b, lane := .q } }) ∧
    (s.dec.lane = .q →
      exec (.decByte b) s =
        .next { s with
          dPix := s.dPix ++ [yiq2rgb (Config.coeff s.dec.method).mat ⟨s.dec.y, s.dec.i, b⟩]
          dec := { s.dec with
            lane := .y
            rem := s.dec.rem - 1#64
            phase := if s.dec.rem - 1#64 = 0#64 then .done else .data } })

/-- R175: in `D_DONE` and `D_ERR` a byte is taken from `D_IN` and discarded, nothing else changing; in `D_IDLE` it is not
taken. Stated for a step whose turn is `D_IN`'s (log 3). -/
def Obligations.DrainedBytesChangeNothing : Prop :=
  ∀ (b : Byte) (s : State) (rest : List (BitVec 9)) (ts : List Turn),
    s.inp.turns = .dIn :: ts → s.inp.dIn = byteItem b :: rest →
    (s.dec.phase = .done ∨ s.dec.phase = .err →
      step s = .next { s with inp := { s.inp with dIn := rest, turns := ts } }) ∧
    (s.dec.phase = .idle → step s = .next { s with inp := { s.inp with turns := ts } })

/-- R176: DEC.EOS by phase: in `D_HDR` `InvalidFormat` before offset 3 and `TruncatedData` from there on, in `D_DATA`
`TruncatedData`; in `D_DONE` and `D_ERR` nothing; in `D_IDLE` it is not enabled. -/
def Obligations.DecEosByPhase : Prop :=
  ∀ s : State,
    (s.dec.phase = .hdr → s.dec.off.toNat < 3 →
      exec .decEos s = .next { s with dec := { s.dec with err := 2#3, phase := .err } }) ∧
    (s.dec.phase = .hdr → 3 ≤ s.dec.off.toNat →
      exec .decEos s = .next { s with dec := { s.dec with err := 5#3, phase := .err } }) ∧
    (s.dec.phase = .data → exec .decEos s = .next { s with dec := { s.dec with err := 5#3, phase := .err } }) ∧
    (s.dec.phase = .done ∨ s.dec.phase = .err → exec .decEos s = .next s) ∧
    (s.dec.phase = .idle → enabled .decEos s = false)

/-- R178: DEC.STREAM computes `deserialize` and the inverse transform. On success it ends in `D_DONE` with the header in its
registers, shown on `D_HDR` (R177), and the pixels on `D_PIX`; on an error in `D_ERR` with its code, what was emitted being
the pixels of the complete triplets present before the end; ENC and the input ports are untouched. That `dHdr` is `none`
after an error, where R177 calls `D_HDR` meaningless, is the model's choice (log 14). -/
def Obligations.DecAgreesWithDeserialize : Prop :=
  ∀ (bs : List Byte) (s : State), s.dec.phase = .idle ∨ s.dec.phase = .done ∨ s.dec.phase = .err →
    ∃ t, execList (decStream bs) s = .next t ∧
      t.enc = s.enc ∧ t.eOut = s.eOut ∧ t.inp = s.inp ∧
      (∀ x, deserialize bs = .ok x →
        t.dec.phase = .done ∧ t.dec.err = 0#3 ∧
        t.dec.method = x.method ∧ t.dec.width = x.width ∧ t.dec.height = x.height ∧
        t.dPix = s.dPix ++ x.data.map (yiq2rgb (Config.coeff x.method).mat) ∧
        dHdr t = some (x.method.bit ++ x.width ++ x.height)) ∧
      (∀ k, deserialize bs = .error k →
        t.dec.phase = .err ∧ t.dec.err = errCode k ∧ dHdr t = none ∧
        t.dPix = s.dPix ++
          match headerOf bs with
          | .ok (m, _, _) => (triplets (bs.drop 17)).map (yiq2rgb (Config.coeff m).mat)
          | .error _ => [])

/-- 20_memory.md R66, 44_pipeline.md R199: through `step`, a stream on `D_CMD` and `D_IN`, taken in the order the turns name,
commits exactly the result of `decode_stream`. The turns are the model's (log 3). -/
def Obligations.StepsCommitDecodeStream : Prop :=
  ∀ (bs : List Byte) (s : State) (rest : List (BitVec 9)) (ts : List Turn),
    s.dec.phase = .idle ∨ s.dec.phase = .done ∨ s.dec.phase = .err →
    1 ≤ s.inp.dCmd → s.inp.dIn = bs.map byteItem ++ 0x100#9 :: rest →
    s.inp.turns = .dCmd :: (List.replicate (bs.length + 1) .dIn ++ ts) →
    ∃ t, steps (bs.length + 2) s = .next t ∧
      decResult s t = some (decodeStream coeffTable bs) ∧ t.enc = s.enc ∧
      t.inp = { s.inp with dCmd := s.inp.dCmd - 1, dIn := rest, turns := ts }

/-- 42_serializer.md R151: a completed ENC output is the serialization of a valid image, and DEC reads it without an error,
with the same method and dimensions. -/
def Obligations.EncodedOutputDecodes : Prop :=
  ∀ (m : Method) (w h : U32) (px : List Rgb) (s t : State),
    px.length = w.toNat * h.toNat → s.enc.phase = .idle ∨ s.enc.phase = .done →
    s.dec.phase = .idle ∨ s.dec.phase = .done ∨ s.dec.phase = .err →
    execList (encImage m w h px) s = .next t →
    ∃ (x : YiqImage) (u : State), x.valid = true ∧ t.eOut.drop s.eOut.length = serialize x ∧
      execList (decStream (t.eOut.drop s.eOut.length)) t = .next u ∧
      u.dec.phase = .done ∧ u.dec.err = 0#3 ∧
      u.dec.method = m ∧ u.dec.width = w ∧ u.dec.height = h

/-- 60_exceptions.md R214, R211: an operation of DEC that raises is DEC.BYTE in `D_HDR` or DEC.EOS in `D_HDR` or `D_DATA`; it
writes `d_err`, with a code of 2 to 5, and `d_phase`, and nothing else. -/
def Obligations.OnlyByteAndEosRaise : Prop :=
  ∀ (i : Instr) (s t : State), (∀ m w h, i ≠ .fmtHeader m w h) → (∀ y j q, i ≠ .fmtTriplet y j q) →
    exec i s = .next t → s.dec.phase ≠ .err → t.dec.phase = .err →
    ((∃ b, i = .decByte b) ∧ s.dec.phase = .hdr ∨ i = .decEos ∧ (s.dec.phase = .hdr ∨ s.dec.phase = .data)) ∧
    (t.dec.err = 2#3 ∨ t.dec.err = 3#3 ∨ t.dec.err = 4#3 ∨ t.dec.err = 5#3) ∧
    t = { s with dec := { s.dec with err := t.dec.err, phase := .err } }

/-- 60_exceptions.md R216: in `D_ERR` every operation but DEC.START and RESET leaves DEC and `D_PIX` as they are, so the first
error stands; each of those two leaves `D_ERR` with `d_err` cleared. -/
def Obligations.FirstErrorSticks : Prop :=
  ∀ s : State, s.dec.phase = .err →
    (∀ (i : Instr) (t : State), i ≠ .decStart → i ≠ .reset → exec i s = .next t →
      t.dec = s.dec ∧ t.dPix = s.dPix) ∧
    (∃ t, exec .decStart s = .next t ∧ t.dec.phase = .hdr ∧ t.dec.err = 0#3 ∧ t.dec.off = 0#5) ∧
    (∃ t, exec .reset s = .next t ∧ t.dec.phase = .idle ∧ t.dec.err = 0#3)

/-! The format rows -/

/-- R70, R83: FMT.HEADER at the start of a transaction has DEC parse its 17 bytes: the header registers hold the fields, and
DEC is at the data, or done for an empty image. That the row acts so is the model's choice (log 9). -/
def Obligations.FmtHeaderIsParsed : Prop :=
  ∀ (m : Method) (w h : U32) (s : State), s.dec.phase = .hdr → s.dec.off = 0#5 →
    ∃ n : U64, n.toNat = w.toNat * h.toNat ∧
      exec (.fmtHeader m w h) s =
        .next { s with dec := { s.dec with
          off := 16#5, method := m, width := w, height := h, rem := n, lane := .y
          phase := if w.toNat * h.toNat = 0 then .done else .data } }

/-- R72, R83: FMT.TRIPLET at the start of a triplet has DEC emit its pixel and count it. That the row acts so is the model's
choice (log 9). -/
def Obligations.FmtTripletIsConverted : Prop :=
  ∀ (y i q : Byte) (s : State), s.dec.phase = .data → s.dec.lane = .y →
    exec (.fmtTriplet y i q) s =
      .next { s with
        dPix := s.dPix ++ [yiq2rgb (Config.coeff s.dec.method).mat ⟨y, i, q⟩]
        dec := { s.dec with
          y := y, i := i, rem := s.dec.rem - 1#64
          phase := if s.dec.rem - 1#64 = 0#64 then .done else .data } }

/-- R77, R83: a format row is DEC.BYTES of its bytes, in every state (log 9). -/
def Obligations.FormatRowsAreTheirBytes : Prop :=
  ∀ s : State,
    (∀ m w h, exec (.fmtHeader m w h) s = execList ((headerBytes m w h).map .decByte) s) ∧
    (∀ y i q, exec (.fmtTriplet y i q) s = execList [.decByte y, .decByte i, .decByte q] s)

/-! The transforms -/

/-- 40_rgb2yiq.md R100: RGB2YIQ returns, under the coefficients of its method, the three clamped rounded components, and
touches no register or port; that the returned value is recorded in `results` is the model's choice (log 8). -/
def Obligations.Rgb2yiqReturnsTriplet : Prop :=
  ∀ (m : Method) (r g b : Byte) (s : State),
    let c := (Config.coeff m).mat
    let r' : Exact := (r.toNat : Exact) / 255
    let g' : Exact := (g.toNat : Exact) / 255
    let b' : Exact := (b.toNat : Exact) / 255
    ∃ y i q : Byte,
      exec (.rgb2yiq m r g b) s = .next { s with results := s.results ++ [.triplet ⟨y, i, q⟩] } ∧
      (y.toNat : Int) = clampInt (rnd (100 * (c.row0.x * r' + c.row0.y * g' + c.row0.z * b'))) 0 100 ∧
      (i.toNat : Int) =
        clampInt (rnd (100 * (c.row1.x * r' + c.row1.y * g' + c.row1.z * b' + 5957 / 10000))) 0 119 ∧
      (q.toNat : Int) =
        clampInt (rnd (100 * (c.row2.x * r' + c.row2.y * g' + c.row2.z * b' + 5226 / 10000))) 0 105

/-- 41_yiq2rgb.md R120: YIQ2RGB returns, for every byte triple, the clamped rounded channels of the exact inverse matrix of its
method's coefficients, and touches no register or port; the record in `results` is the model's choice (log 8). -/
def Obligations.Yiq2rgbReturnsPixel : Prop :=
  ∀ (m : Method) (y i q : Byte) (s : State),
    let y' : Exact := (y.toNat : Exact) / 100
    let i' : Exact := (i.toNat : Exact) / 100 - 5957 / 10000
    let q' : Exact := (q.toNat : Exact) / 100 - 5226 / 10000
    ∃ (inv : Mat3) (r g b : Byte), matMul inv (Config.coeff m).mat = matId ∧
      exec (.yiq2rgb m y i q) s = .next { s with results := s.results ++ [.pixel ⟨r, g, b⟩] } ∧
      (r.toNat : Int) =
        clampInt (rnd (255 * clampNum (inv.row0.x * y' + inv.row0.y * i' + inv.row0.z * q') 0 1)) 0 255 ∧
      (g.toNat : Int) =
        clampInt (rnd (255 * clampNum (inv.row1.x * y' + inv.row1.y * i' + inv.row1.z * q') 0 1)) 0 255 ∧
      (b.toNat : Int) =
        clampInt (rnd (255 * clampNum (inv.row2.x * y' + inv.row2.y * i' + inv.row2.z * q') 0 1)) 0 255

/-- R122: `MINV` is the inverse of every matrix with a determinant other than 0. -/
def Obligations.MinvIsTheInverse : Prop :=
  ∀ a : Mat3, a.det ≠ 0 → matMul (minv a) a = matId ∧ matMul a (minv a) = matId

/-- R107: black encodes to (0, 60, 52) under every coefficient matrix, and its `I` and `Q` roundings are the same under
either tie rule. -/
def Obligations.BlackFixedPoint : Prop :=
  (∀ c : Mat3, rgb2yiq c ⟨0#8, 0#8, 0#8⟩ = ⟨0#8, 60#8, 52#8⟩) ∧
  roundHalfAway (100 * (5957 / 10000)) = 60 ∧ roundHalfEven (100 * (5957 / 10000)) = 60 ∧
  roundHalfAway (100 * (5226 / 10000)) = 52 ∧ roundHalfEven (100 * (5226 / 10000)) = 52

/-- R108: white has `Y` = 100 under every legal coefficient matrix, the rounded value being 100 before the clamp, and `I` and `Q` follow from the sums of their rows. -/
def Obligations.WhiteFixedPoint : Prop :=
  ∀ c : Mat3, c.legal = true →
    rnd (100 * dot c.row0 (normalise ⟨255#8, 255#8, 255#8⟩)) = 100 ∧
    (rgb2yiq c ⟨255#8, 255#8, 255#8⟩).y = 100#8 ∧
    ((rgb2yiq c ⟨255#8, 255#8, 255#8⟩).i.toNat : Int) =
      clampInt (rnd (100 * (c.row1.x + c.row1.y + c.row1.z + 5957 / 10000))) 0 119 ∧
    ((rgb2yiq c ⟨255#8, 255#8, 255#8⟩).q.toNat : Int) =
      clampInt (rnd (100 * (c.row2.x + c.row2.y + c.row2.z + 5226 / 10000))) 0 105

/-- R109: every encoded triplet is in its domain, under every coefficient matrix. -/
def Obligations.EncodedTripletInDomain : Prop :=
  ∀ (c : Mat3) (p : Rgb), (rgb2yiq c p).inDomain = true

/-- R110: with non-negative luma weights, raising the channels never lowers `Y`; neighbouring greys can share a `Y`. -/
def Obligations.LumaWeaklyMonotone : Prop :=
  (∀ (c : Mat3) (p p' : Rgb), 0 ≤ c.row0.x → 0 ≤ c.row0.y → 0 ≤ c.row0.z →
    p.r.toNat ≤ p'.r.toNat → p.g.toNat ≤ p'.g.toNat → p.b.toNat ≤ p'.b.toNat →
    (rgb2yiq c p).y.toNat ≤ (rgb2yiq c p').y.toNat) ∧
  (∀ c : Mat3, c.legal = true →
    (rgb2yiq c ⟨127#8, 127#8, 127#8⟩).y = 50#8 ∧ (rgb2yiq c ⟨128#8, 128#8, 128#8⟩).y = 50#8)

/-- R111: with luma weights that sum to 1 and chroma rows that sum to 0, a grey has raw chroma 0 and is stored with the chroma of
black. -/
def Obligations.GreysHaveBlackChroma : Prop :=
  ∀ (c : Mat3) (v : Byte), c.row0.x + c.row0.y + c.row0.z = 1 →
    c.row1.x + c.row1.y + c.row1.z = 0 → c.row2.x + c.row2.y + c.row2.z = 0 →
    dot c.row1 (normalise ⟨v, v, v⟩) = 0 ∧ dot c.row2 (normalise ⟨v, v, v⟩) = 0 ∧
    ((rgb2yiq c ⟨v, v, v⟩).y.toNat : Int) = rnd (100 * (v.toNat : Exact) / 255) ∧
    (rgb2yiq c ⟨v, v, v⟩).i = 60#8 ∧ (rgb2yiq c ⟨v, v, v⟩).q = 52#8

/-- R112, 41_yiq2rgb.md R128: rounding is monotone, fixes integers and commutes with clamping to integer bounds; a negative
value rounds to at most 0 under every rule to nearest, so that it is stored as 0; a non-negative one rounds to the floor of
itself and a half; the second clamp of R123 is idle. -/
def Obligations.RoundingAndClamping : Prop :=
  (∀ x y : Exact, x ≤ y → rnd x ≤ rnd y) ∧
  (∀ n : Int, rnd (n : Exact) = n) ∧
  (∀ (x : Exact) (lo hi : Int), lo ≤ hi → clampInt (rnd x) lo hi = rnd (clampNum x lo hi)) ∧
  (∀ x : Exact, x < 0 → roundHalfAway x ≤ 0 ∧ (x + 1 / 2).floor ≤ 0 ∧ roundHalfEven x ≤ 0) ∧
  (∀ x : Exact, 0 ≤ x → rnd x = (x + 1 / 2).floor) ∧
  (∀ (x : Exact) (hi : Int), 0 ≤ hi →
    clampInt (rnd x) 0 hi = if 0 ≤ x then clampInt (x + 1 / 2).floor 0 hi else 0) ∧
  (∀ c : Exact,
    0 ≤ rnd (255 * clampNum c 0 1) ∧ rnd (255 * clampNum c 0 1) ≤ 255 ∧
    clampInt (rnd (255 * clampNum c 0 1)) 0 255 = rnd (255 * clampNum c 0 1) ∧
    clampInt (rnd (255 * c)) 0 255 = rnd (255 * clampNum c 0 1) ∧
    rnd (255 * clampNum c 0 1) = (255 * clampNum c 0 1 + 1 / 2).floor)

/-- R113: with coefficients of four decimal places each stored component is the integer form of its `N`; the two tie rules
differ only on an exact tie. -/
def Obligations.ForwardIntegerForm : Prop :=
  (∀ x : Exact, roundHalfAway x ≠ roundHalfEven x → ∃ n : Int, x = n + 1 / 2) ∧
  ∀ (a : IntMat) (p : Rgb),
    let form := fun (n : Int) (hi : Int) => if 0 ≤ n then clampInt ((2 * n + 25500) / 51000) 0 hi else 0
    let r : Int := p.r.toNat
    let g : Int := p.g.toNat
    let b : Int := p.b.toNat
    ((rgb2yiq a.coeff p).y.toNat : Int) = form (a.a00 * r + a.a01 * g + a.a02 * b) 100 ∧
    ((rgb2yiq a.coeff p).i.toNat : Int) = form (a.a10 * r + a.a11 * g + a.a12 * b + 5957 * 255) 119 ∧
    ((rgb2yiq a.coeff p).q.toNat : Int) = form (a.a20 * r + a.a21 * g + a.a22 * b + 5226 * 255) 105

/-- R130: with coefficients of four decimal places each channel is the integer form of its `S` over the determinant, both
negated if the determinant is negative. -/
def Obligations.InverseIntegerForm : Prop :=
  ∀ (a : IntMat) (t : Triplet),
    let det : Int := a.a00 * (a.a11 * a.a22 - a.a12 * a.a21) - a.a01 * (a.a10 * a.a22 - a.a12 * a.a20)
      + a.a02 * (a.a10 * a.a21 - a.a11 * a.a20)
    let v0 : Int := 100 * t.y.toNat
    let v1 : Int := 100 * t.i.toNat - 5957
    let v2 : Int := 100 * t.q.toNat - 5226
    let s0 := (a.a11 * a.a22 - a.a12 * a.a21) * v0 + (a.a02 * a.a21 - a.a01 * a.a22) * v1
      + (a.a01 * a.a12 - a.a02 * a.a11) * v2
    let s1 := (a.a12 * a.a20 - a.a10 * a.a22) * v0 + (a.a00 * a.a22 - a.a02 * a.a20) * v1
      + (a.a02 * a.a10 - a.a00 * a.a12) * v2
    let s2 := (a.a10 * a.a21 - a.a11 * a.a20) * v0 + (a.a01 * a.a20 - a.a00 * a.a21) * v1
      + (a.a00 * a.a11 - a.a01 * a.a10) * v2
    let form := fun (s d : Int) => if s ≤ 0 then 0 else if d ≤ s then 255 else (2 * 255 * s + d) / (2 * d)
    let signed := fun (s : Int) => if det < 0 then form (-s) (-det) else form s det
    det ≠ 0 →
    ((yiq2rgb a.coeff t).r.toNat : Int) = signed s0 ∧
    ((yiq2rgb a.coeff t).g.toNat : Int) = signed s1 ∧
    ((yiq2rgb a.coeff t).b.toNat : Int) = signed s2

/-- R127, 95_test_vectors.md section 2.5: under the candidate sets of 93_implementation_defined.md G1, which are not from the
source (log 22), the round trip of every pixel is within 3, 2 and 5 levels. -/
def Obligations.CandidateRoundTripBound : Prop :=
  RoundTripWithin candNtsc1953 ⟨3, 2, 5⟩ ∧ RoundTripWithin candSmptec ⟨3, 2, 5⟩
end

