-- ==== Sys2Proof/Laws/Arith.lean ====
section
/-! SUPPORT. Lemmas about rounding, clamping and the narrowing to a byte. -/

namespace Sys2Proof.Machine

theorem rnd_eq (x : Exact) : rnd x = roundHalfAway x := rfl

theorem clampInt_lo {v lo hi : Int} (h : lo ≤ hi) : lo ≤ clampInt v lo hi := by
  unfold clampInt; split
  · exact le_refl _
  · split <;> omega

theorem clampInt_hi {v lo hi : Int} (h : lo ≤ hi) : clampInt v lo hi ≤ hi := by
  unfold clampInt; split
  · exact h
  · split <;> omega

theorem clampInt_id {v lo hi : Int} (h1 : lo ≤ v) (h2 : v ≤ hi) : clampInt v lo hi = v := by
  simp [clampInt, not_lt.mpr h1, not_lt.mpr h2]

/-- The byte of an integer from 0 to 255 is that integer. -/
theorem toByte_toNat {v : Int} (h0 : 0 ≤ v) (h1 : v ≤ 255) : ((toByte v).toNat : Int) = v := by
  simp only [toByte, BitVec.toNat_ofInt]
  omega

/-- A stored component is the clamped integer (40_rgb2yiq.md R104, R105). -/
theorem storeComponent_toNat (x : Exact) {hi : Int} (h0 : 0 ≤ hi) (h1 : hi ≤ 255) :
    ((storeComponent x hi).toNat : Int) = clampInt (rnd (Config.scale * x)) 0 hi :=
  toByte_toNat (clampInt_lo h0) (le_trans (clampInt_hi h0) h1)

/-- A channel is the clamped integer (41_yiq2rgb.md R123). -/
theorem channel_toNat (c : Exact) :
    ((channel c).toNat : Int) = clampInt (rnd (255 * clampNum c 0 1)) 0 255 :=
  toByte_toNat (clampInt_lo (by decide)) (clampInt_hi (by decide))

end Sys2Proof.Machine
end

