-- ==== Sys2Proof/Laws/Operands.lean ====
section
/-! SUPPORT. Lemmas about the operand forms of Machine/Operands.lean and the method bit. -/

namespace Sys2Proof.Machine

@[simp] theorem methodOfBit_bit (m : Method) : methodOfBit m.bit = m := by
  cases m <;> rfl

@[simp] theorem methodByte_low (m : Method) : (methodByte m).extractLsb' 0 1 = m.bit := by
  cases m <;> rfl

theorem methodByte_le_one (m : Method) : (methodByte m).toNat ≤ 1 := by
  cases m <;> decide

@[simp] theorem leBytes_length (v : U32) : (leBytes v).length = 4 := rfl

/-- The header is 17 bytes long (00_scope.md R8 `HDR_LEN`). -/
@[simp] theorem headerBytes_length (m : Method) (w h : U32) : (headerBytes m w h).length = 17 := rfl

@[simp] theorem tripletBytes_length (t : Triplet) : (tripletBytes t).length = 3 := rfl

/-- A header byte exists exactly at the offsets 0 to 16 (42_serializer.md R141). -/
theorem headerByte_some (m : Method) (w h : U32) (k : Nat) (hk : k ≤ 16) :
    ∃ b, headerByte m w h k = some b := by
  have hl : k < (headerBytes m w h).length := by rw [headerBytes_length]; omega
  exact ⟨_, List.getElem?_eq_getElem hl⟩

/-- The product of two 32-bit numbers fits 64 bits (10_state.md R30). -/
theorem u32_mul_lt (w h : U32) : w.toNat * h.toNat < 2 ^ 64 := by
  have h1 : w.toNat ≤ 2 ^ 32 - 1 := by have := w.isLt; omega
  have h2 : h.toNat ≤ 2 ^ 32 - 1 := by have := h.isLt; omega
  exact lt_of_le_of_lt (Nat.mul_le_mul h1 h2) (by decide)

/-- The pixel count is the exact product (R30). -/
@[simp] theorem pixelCount_toNat (w h : U32) : (pixelCount w h).toNat = w.toNat * h.toNat := by
  simp only [pixelCount, zext64, BitVec.toNat_mul, BitVec.toNat_setWidth]
  have h1 : w.toNat % 2 ^ 64 = w.toNat := Nat.mod_eq_of_lt (by have := w.isLt; omega)
  have h2 : h.toNat % 2 ^ 64 = h.toNat := Nat.mod_eq_of_lt (by have := h.isLt; omega)
  rw [h1, h2, Nat.mod_eq_of_lt (u32_mul_lt w h)]

theorem pixelCount_eq_zero (w h : U32) : pixelCount w h = 0#64 ↔ w.toNat * h.toNat = 0 := by
  rw [← BitVec.toNat_inj, pixelCount_toNat]; rfl

end Sys2Proof.Machine
end

