-- ==== Sys2Proof/Laws/State.lean ====
section
/-! SUPPORT. One lemma per field of State per update of Machine/Ops.lean, and per register of DEC for the error entry and
the start of a transaction, each true by rfl. -/

namespace Sys2Proof.Machine

@[simp] theorem State.setEnc_enc (s : State) (e : Enc) : (s.setEnc e).enc = e := rfl
@[simp] theorem State.setEnc_dec (s : State) (e : Enc) : (s.setEnc e).dec = s.dec := rfl
@[simp] theorem State.setEnc_inp (s : State) (e : Enc) : (s.setEnc e).inp = s.inp := rfl
@[simp] theorem State.setEnc_eOut (s : State) (e : Enc) : (s.setEnc e).eOut = s.eOut := rfl
@[simp] theorem State.setEnc_dPix (s : State) (e : Enc) : (s.setEnc e).dPix = s.dPix := rfl
@[simp] theorem State.setEnc_results (s : State) (e : Enc) : (s.setEnc e).results = s.results := rfl
@[simp] theorem State.setEnc_draws (s : State) (e : Enc) : (s.setEnc e).draws = s.draws := rfl

@[simp] theorem State.setDec_enc (s : State) (d : Dec) : (s.setDec d).enc = s.enc := rfl
@[simp] theorem State.setDec_dec (s : State) (d : Dec) : (s.setDec d).dec = d := rfl
@[simp] theorem State.setDec_inp (s : State) (d : Dec) : (s.setDec d).inp = s.inp := rfl
@[simp] theorem State.setDec_eOut (s : State) (d : Dec) : (s.setDec d).eOut = s.eOut := rfl
@[simp] theorem State.setDec_dPix (s : State) (d : Dec) : (s.setDec d).dPix = s.dPix := rfl
@[simp] theorem State.setDec_results (s : State) (d : Dec) : (s.setDec d).results = s.results := rfl
@[simp] theorem State.setDec_draws (s : State) (d : Dec) : (s.setDec d).draws = s.draws := rfl

@[simp] theorem State.emitBytes_enc (s : State) (bs : List Byte) : (s.emitBytes bs).enc = s.enc := rfl
@[simp] theorem State.emitBytes_dec (s : State) (bs : List Byte) : (s.emitBytes bs).dec = s.dec := rfl
@[simp] theorem State.emitBytes_inp (s : State) (bs : List Byte) : (s.emitBytes bs).inp = s.inp := rfl
@[simp] theorem State.emitBytes_eOut (s : State) (bs : List Byte) : (s.emitBytes bs).eOut = s.eOut ++ bs := rfl
@[simp] theorem State.emitBytes_dPix (s : State) (bs : List Byte) : (s.emitBytes bs).dPix = s.dPix := rfl
@[simp] theorem State.emitBytes_results (s : State) (bs : List Byte) : (s.emitBytes bs).results = s.results := rfl
@[simp] theorem State.emitBytes_draws (s : State) (bs : List Byte) : (s.emitBytes bs).draws = s.draws := rfl

@[simp] theorem State.emitPixel_enc (s : State) (p : Rgb) : (s.emitPixel p).enc = s.enc := rfl
@[simp] theorem State.emitPixel_dec (s : State) (p : Rgb) : (s.emitPixel p).dec = s.dec := rfl
@[simp] theorem State.emitPixel_inp (s : State) (p : Rgb) : (s.emitPixel p).inp = s.inp := rfl
@[simp] theorem State.emitPixel_eOut (s : State) (p : Rgb) : (s.emitPixel p).eOut = s.eOut := rfl
@[simp] theorem State.emitPixel_dPix (s : State) (p : Rgb) : (s.emitPixel p).dPix = s.dPix ++ [p] := rfl
@[simp] theorem State.emitPixel_results (s : State) (p : Rgb) : (s.emitPixel p).results = s.results := rfl
@[simp] theorem State.emitPixel_draws (s : State) (p : Rgb) : (s.emitPixel p).draws = s.draws := rfl

@[simp] theorem State.emitResult_enc (s : State) (r : PureResult) : (s.emitResult r).enc = s.enc := rfl
@[simp] theorem State.emitResult_dec (s : State) (r : PureResult) : (s.emitResult r).dec = s.dec := rfl
@[simp] theorem State.emitResult_inp (s : State) (r : PureResult) : (s.emitResult r).inp = s.inp := rfl
@[simp] theorem State.emitResult_eOut (s : State) (r : PureResult) : (s.emitResult r).eOut = s.eOut := rfl
@[simp] theorem State.emitResult_dPix (s : State) (r : PureResult) : (s.emitResult r).dPix = s.dPix := rfl
@[simp] theorem State.emitResult_results (s : State) (r : PureResult) : (s.emitResult r).results = s.results ++ [r] := rfl
@[simp] theorem State.emitResult_draws (s : State) (r : PureResult) : (s.emitResult r).draws = s.draws := rfl

@[simp] theorem State.raise_enc (s : State) (k : ErrKind) : (s.raise k).enc = s.enc := rfl
@[simp] theorem State.raise_dec (s : State) (k : ErrKind) : (s.raise k).dec = s.dec.raise k := rfl
@[simp] theorem State.raise_inp (s : State) (k : ErrKind) : (s.raise k).inp = s.inp := rfl
@[simp] theorem State.raise_eOut (s : State) (k : ErrKind) : (s.raise k).eOut = s.eOut := rfl
@[simp] theorem State.raise_dPix (s : State) (k : ErrKind) : (s.raise k).dPix = s.dPix := rfl
@[simp] theorem State.raise_results (s : State) (k : ErrKind) : (s.raise k).results = s.results := rfl
@[simp] theorem State.raise_draws (s : State) (k : ErrKind) : (s.raise k).draws = s.draws := rfl

@[simp] theorem State.afterReset_enc (s : State) : s.afterReset.enc = Enc.afterReset s.draws := rfl
@[simp] theorem State.afterReset_dec (s : State) : s.afterReset.dec = Dec.afterReset (s.draws + 5) := rfl
@[simp] theorem State.afterReset_inp (s : State) : s.afterReset.inp = s.inp := rfl
@[simp] theorem State.afterReset_eOut (s : State) : s.afterReset.eOut = s.eOut := rfl
@[simp] theorem State.afterReset_dPix (s : State) : s.afterReset.dPix = s.dPix := rfl
@[simp] theorem State.afterReset_results (s : State) : s.afterReset.results = s.results := rfl
@[simp] theorem State.afterReset_draws (s : State) : s.afterReset.draws = s.draws + 13 := rfl

@[simp] theorem Dec.raise_phase (d : Dec) (k : ErrKind) : (d.raise k).phase = .err := rfl
@[simp] theorem Dec.raise_off (d : Dec) (k : ErrKind) : (d.raise k).off = d.off := rfl
@[simp] theorem Dec.raise_method (d : Dec) (k : ErrKind) : (d.raise k).method = d.method := rfl
@[simp] theorem Dec.raise_width (d : Dec) (k : ErrKind) : (d.raise k).width = d.width := rfl
@[simp] theorem Dec.raise_height (d : Dec) (k : ErrKind) : (d.raise k).height = d.height := rfl
@[simp] theorem Dec.raise_rem (d : Dec) (k : ErrKind) : (d.raise k).rem = d.rem := rfl
@[simp] theorem Dec.raise_lane (d : Dec) (k : ErrKind) : (d.raise k).lane = d.lane := rfl
@[simp] theorem Dec.raise_y (d : Dec) (k : ErrKind) : (d.raise k).y = d.y := rfl
@[simp] theorem Dec.raise_i (d : Dec) (k : ErrKind) : (d.raise k).i = d.i := rfl
@[simp] theorem Dec.raise_err (d : Dec) (k : ErrKind) : (d.raise k).err = errCode k := rfl

@[simp] theorem Dec.start_phase (d : Dec) : d.start.phase = .hdr := rfl
@[simp] theorem Dec.start_off (d : Dec) : d.start.off = 0#5 := rfl
@[simp] theorem Dec.start_method (d : Dec) : d.start.method = d.method := rfl
@[simp] theorem Dec.start_width (d : Dec) : d.start.width = d.width := rfl
@[simp] theorem Dec.start_height (d : Dec) : d.start.height = d.height := rfl
@[simp] theorem Dec.start_rem (d : Dec) : d.start.rem = d.rem := rfl
@[simp] theorem Dec.start_lane (d : Dec) : d.start.lane = d.lane := rfl
@[simp] theorem Dec.start_y (d : Dec) : d.start.y = d.y := rfl
@[simp] theorem Dec.start_i (d : Dec) : d.start.i = d.i := rfl
@[simp] theorem Dec.start_err (d : Dec) : d.start.err = 0#3 := rfl

@[simp] theorem Enc.afterReset_phase (n : Nat) : (Enc.afterReset n).phase = .idle := rfl
@[simp] theorem Dec.afterReset_phase (n : Nat) : (Dec.afterReset n).phase = .idle := rfl
@[simp] theorem Dec.afterReset_err (n : Nat) : (Dec.afterReset n).err = 0#3 := rfl

/-- Setting the registers twice keeps the second values. -/
@[simp] theorem State.setDec_setDec (s : State) (d d' : Dec) : (s.setDec d).setDec d' = s.setDec d' := rfl

@[simp] theorem State.setEnc_setEnc (s : State) (e e' : Enc) : (s.setEnc e).setEnc e' = s.setEnc e' := rfl

/-- Writing back what was read changes nothing. -/
@[simp] theorem State.setDec_self (s : State) : s.setDec s.dec = s := rfl

@[simp] theorem State.setEnc_self (s : State) : s.setEnc s.enc = s := rfl

/-- A code and its kind determine each other (60_exceptions.md R210). -/
@[simp] theorem errKind_errCode (k : ErrKind) : errKind (errCode k) = some k := by
  cases k <;> rfl

/-- A raised code is never the code of no error. -/
@[simp] theorem errCode_ne_zero (k : ErrKind) : errCode k ≠ 0#3 := by
  cases k <;> decide

end Sys2Proof.Machine
end

