-- ==== Sys2Proof/Laws/Exec.lean ====
section
/-! SUPPORT. What each shared operation can do, said once: the equations of `exec`, of sequences and of DEC's byte
handling by phase. -/

namespace Sys2Proof.Machine

@[simp] theorem exec_rgb2yiq (m : Method) (r g b : Byte) (s : State) :
    exec (.rgb2yiq m r g b) s = execRgb2yiq m r g b s := rfl

@[simp] theorem exec_yiq2rgb (m : Method) (y i q : Byte) (s : State) :
    exec (.yiq2rgb m y i q) s = execYiq2rgb m y i q s := rfl

@[simp] theorem exec_encStart (m : Method) (w h : U32) (s : State) :
    exec (.encStart m w h) s = execEncStart m w h s := rfl

@[simp] theorem exec_encHdr (s : State) : exec .encHdr s = execEncHdr s := rfl

@[simp] theorem exec_encPix (r g b : Byte) (s : State) : exec (.encPix r g b) s = execEncPix r g b s := rfl

@[simp] theorem exec_decStart (s : State) : exec .decStart s = execDecStart s := rfl

@[simp] theorem exec_decByte (b : Byte) (s : State) : exec (.decByte b) s = decByteStep b s := rfl

@[simp] theorem exec_decEos (s : State) : exec .decEos s = execDecEos s := rfl

@[simp] theorem exec_reset (s : State) : exec .reset s = .next s.afterReset := rfl

@[simp] theorem exec_fmtHeader (m : Method) (w h : U32) (s : State) :
    exec (.fmtHeader m w h) s = decBytes (headerBytes m w h) s := rfl

@[simp] theorem exec_fmtTriplet (y i q : Byte) (s : State) :
    exec (.fmtTriplet y i q) s = decBytes [y, i, q] s := rfl

/-- DEC.BYTE by phase (43_deserializer.md R173 to R175). -/
theorem decByteStep_cases (b : Byte) (s : State) :
    (s.dec.phase = .hdr ∧ decByteStep b s = decHeaderByte b s) ∨
    (s.dec.phase = .data ∧ decByteStep b s = decDataByte b s) ∨
    (s.dec.phase ≠ .hdr ∧ s.dec.phase ≠ .data ∧ decByteStep b s = .next s) := by
  unfold decByteStep
  cases s.dec.phase <;> simp [noStep]

theorem decByteStep_hdr (b : Byte) (s : State) (h : s.dec.phase = .hdr) :
    decByteStep b s = decHeaderByte b s := by
  simp [decByteStep, h]

theorem decByteStep_data (b : Byte) (s : State) (h : s.dec.phase = .data) :
    decByteStep b s = decDataByte b s := by
  simp [decByteStep, h]

/-- In `D_IDLE`, `D_DONE` and `D_ERR` a byte changes nothing (R175). -/
theorem decByteStep_other (b : Byte) (s : State) (h : s.dec.phase ≠ .hdr) (h' : s.dec.phase ≠ .data) :
    decByteStep b s = .next s := by
  rcases decByteStep_cases b s with c | c | c
  · exact absurd c.1 h
  · exact absurd c.1 h'
  · exact c.2.2

@[simp] theorem decBytes_nil (s : State) : decBytes [] s = .next s := rfl

theorem decBytes_cons_next {b : Byte} {bs : List Byte} {s t : State} (h : decByteStep b s = .next t) :
    decBytes (b :: bs) s = decBytes bs t := by
  simp [decBytes, h]

/-- A run of bytes splits where one likes. -/
theorem decBytes_append {as bs : List Byte} {s t : State} (h : decBytes as s = .next t) :
    decBytes (as ++ bs) s = decBytes bs t := by
  induction as generalizing s with
  | nil => simp only [decBytes_nil, Host.Outcome.next.injEq] at h; simp [h]
  | cons a as ih =>
    simp only [decBytes, List.cons_append] at h ⊢
    split at h <;> first | exact ih h | cases h

@[simp] theorem execList_nil (s : State) : execList [] s = .next s := rfl

theorem execList_cons_next {i : Instr} {is : List Instr} {s t : State} (h : exec i s = .next t) :
    execList (i :: is) s = execList is t := by
  simp [execList, h]

/-- A sequence of operations splits where one likes. -/
theorem execList_append {is js : List Instr} {s t : State} (h : execList is s = .next t) :
    execList (is ++ js) s = execList js t := by
  induction is generalizing s with
  | nil => simp only [execList_nil, Host.Outcome.next.injEq] at h; simp [h]
  | cons i is ih =>
    simp only [execList, List.cons_append] at h ⊢
    split at h <;> first | exact ih h | cases h

@[simp] theorem steps_zero (s : State) : steps 0 s = .next s := rfl

theorem steps_succ_next {n : Nat} {s t : State} (h : step s = .next t) : steps (n + 1) s = steps n t := by
  simp [steps, h]

theorem steps_add {m n : Nat} {s t : State} (h : steps m s = .next t) : steps (m + n) s = steps n t := by
  induction m generalizing s with
  | zero => simp only [steps_zero, Host.Outcome.next.injEq] at h; simp [h]
  | succ m ih =>
    rw [Nat.succ_add]
    simp only [steps] at h ⊢
    split at h <;> first | exact ih h | cases h

end Sys2Proof.Machine
end

