-- ==== Sys2Proof/Laws/PerInstr.lean ====
section
/-! SUPPORT. The family EncodeFits: the word of an operation has no bit above its item's width (30_encoding.md R74). -/

namespace Sys2Proof.Laws.EncodeFits

/-- The word of `i` fits the item it is offered as. -/
def Statement (i : Instr) : Prop := encode i < 2 ^ i.format.width

theorem rgb2yiq (m : Method) (r g b : Byte) : Statement (.rgb2yiq m r g b) := BitVec.isLt _
theorem yiq2rgb (m : Method) (y i q : Byte) : Statement (.yiq2rgb m y i q) := BitVec.isLt _
theorem encStart (m : Method) (w h : U32) : Statement (.encStart m w h) := BitVec.isLt _
theorem encHdr : Statement .encHdr := by unfold Statement; decide
theorem encPix (r g b : Byte) : Statement (.encPix r g b) := BitVec.isLt _
theorem decStart : Statement .decStart := by unfold Statement; decide
theorem decByte (b : Byte) : Statement (.decByte b) := BitVec.isLt _
theorem decEos : Statement .decEos := by unfold Statement; decide
theorem reset : Statement .reset := by unfold Statement; decide
theorem fmtHeader (m : Method) (w h : U32) : Statement (.fmtHeader m w h) := BitVec.isLt _
theorem fmtTriplet (y i q : Byte) : Statement (.fmtTriplet y i q) := BitVec.isLt _

end Sys2Proof.Laws.EncodeFits
end

