-- ==== Sys2Proof/Tests/Slice0.lean ====
section
/-! SUPPORT. The model's own tests: each expected value is the spec's (95_test_vectors.md, or the rule named), and each
statement of Certificates/Slice0/Obligations.lean with hypotheses has a witness that meets them. -/

namespace Sys2Proof.Tests

open Sys2Proof Sys2Proof.Machine

/-- The outcome is a next state that meets `p`. -/
def answers (o : Outcome) (p : State → Bool) : Bool :=
  match o with
  | .next t => p t
  | .fault _ => false
  | .refused _ => false

/-- A small state: ENC in a phase with an offset, a 1×1 image and a count. -/
def encAt (p : EPhase) (off : BitVec 5) (rem : U64) : State :=
  State.reset.setEnc { phase := p, method := .smptec, width := 1#32, height := 1#32, off := off, rem := rem }

/-- A small state: DEC in a phase with an offset, a 1×1 image, a lane and an error code. -/
def decAt (p : DPhase) (off : BitVec 5) (l : Lane) (err : BitVec 3) : State :=
  State.reset.setDec { phase := p, off := off, method := .smptec, width := 1#32, height := 1#32, rem := 1#64, lane := l,
                       y := 0#8, i := 0#8, err := err }

/-- The container of a 1×1 black image under SMPTEC (95_test_vectors.md section 2.6). -/
def blackContainer : List Byte :=
  [0x59#8, 0x49#8, 0x51#8, 0x01#8, 0x01#8, 0x01#8, 0x00#8, 0x00#8, 0x00#8, 0x01#8, 0x00#8, 0x00#8, 0x00#8, 0x44#8,
    0x41#8, 0x54#8, 0x41#8, 0x00#8, 0x3C#8, 0x34#8]

def blackImage : YiqImage :=
  { method := .smptec, width := 1#32, height := 1#32, data := [⟨0#8, 60#8, 52#8⟩] }

/-! Well-formedness: each check refuses an ill-formed term (R23, R24, R9). -/

theorem test_wf_y_above_domain : Triplet.inDomain ⟨101#8, 119#8, 105#8⟩ = false := by decide
theorem test_wf_i_above_domain : Triplet.inDomain ⟨100#8, 120#8, 105#8⟩ = false := by decide
theorem test_wf_q_above_domain : Triplet.inDomain ⟨100#8, 119#8, 106#8⟩ = false := by decide
theorem test_wf_domain_corner : Triplet.inDomain ⟨100#8, 119#8, 105#8⟩ = true := by decide
theorem test_wf_image_too_short : YiqImage.sized { blackImage with width := 2#32 } = false := by decide
theorem test_wf_image_bad_triplet : YiqImage.valid { blackImage with data := [⟨101#8, 60#8, 52#8⟩] } = false := by decide
theorem test_wf_image : blackImage.valid = true := by decide
theorem test_wf_luma_not_one : Mat3.legal ⟨⟨1, 1, 0⟩, ⟨0, 1, 0⟩, ⟨0, 0, 1⟩⟩ = false := by decide +kernel
theorem test_wf_singular : Mat3.legal ⟨⟨1, 0, 0⟩, ⟨1, 0, 0⟩, ⟨0, 0, 1⟩⟩ = false := by decide +kernel
theorem test_wf_candidates : candNtsc1953.legal = true ∧ candSmptec.legal = true := by decide +kernel
theorem test_wf_instr : Instr.wf (.decByte 0xFF#8) = true := by decide

/-! Decoding: words written out from R70, R72, R74. -/

/-- m = 1, R = 200, G = 100, B = 50. -/
theorem test_decode_rgb2yiq :
    decode .rgb2yiq 0b1110010000110010000110010 = .ok (.rgb2yiq .smptec 200#8 100#8 50#8) := by rfl

/-- m = 0, Y = 49, I = 89, Q = 54. -/
theorem test_decode_yiq2rgb :
    decode .yiq2rgb 0b0001100010101100100110110 = .ok (.yiq2rgb .ntsc1953 49#8 89#8 54#8) := by rfl

/-- Program P2: `E_CMD` 0x10000000200000002; the width is the upper word. -/
theorem test_decode_encStart : decode .eCmd 0x10000000200000003 = .ok (.encStart .smptec 2#32 3#32) := by rfl

theorem test_decode_encHdr : decode .auto 0 = .ok .encHdr := by rfl

/-- Program P2: `E_PIX` 00FF01, R the most significant byte. -/
theorem test_decode_encPix : decode .ePix 0x00FF01 = .ok (.encPix 0#8 0xFF#8 1#8) := by rfl

theorem test_decode_decStart : decode .dCmd 0 = .ok .decStart := by rfl

/-- Program P2: `D_IN` 04A is a byte, 100 the end mark. -/
theorem test_decode_decByte : decode .dIn 0b001001010 = .ok (.decByte 0x4A#8) := by rfl

/-- R74: the low bits of an end mark are ignored. -/
theorem test_decode_decEos : decode .dIn 0b100000000 = .ok .decEos ∧ decode .dIn 0b111111111 = .ok .decEos := by
  exact ⟨rfl, rfl⟩

theorem test_decode_reset : decode .rst 0 = .ok .reset := by rfl

/-- 95_test_vectors.md 2.6, SMPTEC, width 0x01020304 and height 5, bytes from the last to the first. -/
theorem test_decode_fmtHeader :
    decode .header 0x4154414400000005010203040101514959 = .ok (.fmtHeader .smptec 0x01020304#32 5#32) := by rfl

/-- R72: byte 0 is Y, byte 1 I, byte 2 Q. -/
theorem test_decode_fmtTriplet : decode .triplet 0x4A771E = .ok (.fmtTriplet 0x1E#8 0x77#8 0x4A#8) := by rfl

/-- R79, each named rejection: magic `yIQ`, version 2, method 2, sentinel `DATB`, and a bit above the item. -/
theorem test_decode_rejects :
    decode .header 0x4154414400000005010203040101514979 = .error .badConstant ∧
    decode .header 0x4154414400000005010203040102514959 = .error .badVersion ∧
    decode .header 0x4154414400000005010203040201514959 = .error .badMethod ∧
    decode .header 0x4254414400000005010203040101514959 = .error .badConstant ∧
    decode .dIn 0x200 = .error .tooWide := by
  exact ⟨rfl, rfl, rfl, rfl, rfl⟩

theorem test_tableWord_decByte : decodeTableWord 16 0x059 = some (.decByte 0x59#8) := by rfl
/-- The table's own match of FMT.HEADER, and the same bytes with the first one least significant. -/
theorem test_tableWord_header :
    decodeTableWord 136 0x5949510100000000000000000044415441 = some (.fmtHeader .ntsc1953 0#32 0#32) ∧
    decodeTableWord 136 0x4154414400000000000000000001514959 = some (.fmtHeader .ntsc1953 0#32 0#32) := by
  exact ⟨rfl, rfl⟩

theorem test_tableWord_decEos : decodeTableWord 16 0x100 = some .decEos := by rfl

/-! Arithmetic: 95_test_vectors.md sections 2.1 to 2.4. -/

theorem test_rnd_ties : rnd (5 / 2) = 3 ∧ rnd (-5 / 2) = -3 ∧ rnd (1 / 2) = 1 ∧ rnd (-1 / 4) = 0 := by decide +kernel
theorem test_half_even_ties : roundHalfEven (5 / 2) = 2 ∧ roundHalfEven (3 / 2) = 2 := by decide +kernel
theorem test_clamp : clampInt 101 0 100 = 100 ∧ clampInt (-3) 0 105 = 0 ∧ clampNum (7 / 5) 0 1 = 1 := by decide +kernel

/-- Section 2.2: (200, 100, 50) under method 0. -/
theorem test_rgb2yiq_worked : rgb2yiq candNtsc1953 ⟨200#8, 100#8, 50#8⟩ = ⟨49#8, 89#8, 54#8⟩ := by decide +kernel

/-- Section 2.2: pure green under method 1, a negative scaled Q. -/
theorem test_rgb2yiq_green : rgb2yiq candSmptec ⟨0#8, 255#8, 0#8⟩ = ⟨59#8, 32#8, 0#8⟩ := by decide +kernel

/-- Section 2.3: a tie of Y, 8.5 rounds to 9. -/
theorem test_rgb2yiq_tie : rgb2yiq candNtsc1953 ⟨0#8, 21#8, 82#8⟩ = ⟨9#8, 47#8, 58#8⟩ := by decide +kernel

/-- Section 2.4: black does not come back as black. -/
theorem test_yiq2rgb_black : yiq2rgb candSmptec ⟨0#8, 60#8, 52#8⟩ = ⟨1#8, 0#8, 0#8⟩ := by decide +kernel

/-- Section 2.4: all bytes 0xFF, far out of domain, are converted as they stand. -/
theorem test_yiq2rgb_out_of_domain : yiq2rgb candNtsc1953 ⟨255#8, 255#8, 255#8⟩ = ⟨255#8, 180#8, 255#8⟩ := by
  decide +kernel

/-- 93_implementation_defined.md G1: an entry of an exact inverse. -/
theorem test_minv : (minv candSmptec).row0 = ⟨1, 410 / 433, 270 / 433⟩ := by decide +kernel

/-! The container functions: 95_test_vectors.md sections 2.6 to 2.8. -/

theorem test_serialize : serialize blackImage = blackContainer := by decide
theorem test_deserialize : deserialize (blackContainer ++ [0x0A#8]) = .ok blackImage := by rfl
theorem test_deserialize_empty : deserialize [] = .error .invalidFormat := by rfl
theorem test_deserialize_magic_only : deserialize [0x59#8, 0x49#8, 0x51#8] = .error .truncatedData := by rfl
theorem test_deserialize_bad_sentinel_then_end :
    deserialize (blackContainer.take 14 ++ [0x42#8]) = .error .invalidFormat := by rfl
theorem test_deserialize_partial_triplet : deserialize (blackContainer.take 19) = .error .truncatedData := by rfl

/-- R29: the codes of `d_lane`; 3 never occurs. -/
theorem test_lane_codes :
    Lane.bits .y = 0#2 ∧ Lane.bits .i = 1#2 ∧ Lane.bits .q = 2#2 ∧ ∀ l : Lane, l.bits ≠ 3#2 := by
  refine ⟨rfl, rfl, rfl, fun l => ?_⟩
  cases l <;> decide

/-! One step or operation each. -/

/-- Section 2.6: the largest dimensions give `e_rem` = 2^64 − 2^33 + 1. -/
theorem test_encStart_exact_count :
    answers (exec (.encStart .ntsc1953 4294967295#32 4294967295#32) State.reset)
      (fun t => decide (t.enc.rem.toNat = 18446744065119617025 ∧ t.enc.phase = .hdr)) = true := by decide

/-- R145: not enabled in an open transaction. -/
theorem test_encStart_not_taken :
    answers (exec (.encStart .ntsc1953 7#32 7#32) (encAt .data 16#5 1#64)) (fun t => decide (t = encAt .data 16#5 1#64))
      = true := by decide

/-- R146: offset 4 emits the method byte, offset 16 ends the header. -/
theorem test_encHdr_method_byte :
    answers (exec .encHdr (encAt .hdr 4#5 1#64)) (fun t => decide (t.eOut = [0x01#8] ∧ t.enc.off = 5#5)) = true := by
  decide

theorem test_encHdr_last_byte :
    answers (exec .encHdr (encAt .hdr 16#5 0#64)) (fun t => decide (t.eOut = [0x41#8] ∧ t.enc.phase = .done)) = true := by
  decide

/-- R147: the last pixel ends the transaction after three bytes. -/
theorem test_encPix_last :
    answers (exec (.encPix 0#8 0#8 0#8) (encAt .data 16#5 1#64))
      (fun t => decide (t.enc.phase = .done ∧ t.enc.rem = 0#64 ∧ t.eOut.length = 3)) = true := by decide

/-- Section 2.9: DEC.START in `D_ERR` clears the error. -/
theorem test_decStart_recovers :
    answers (exec .decStart (decAt .err 3#5 .y 3#3))
      (fun t => decide (t.dec.phase = .hdr ∧ t.dec.off = 0#5 ∧ t.dec.err = 0#3)) = true := by decide

/-- Section 2.8: version 2 gives `d_err` 3 and keeps the offset. -/
theorem test_decByte_bad_version :
    answers (exec (.decByte 0x02#8) (decAt .hdr 3#5 .y 0#3))
      (fun t => decide (t.dec.phase = .err ∧ t.dec.err = 3#3 ∧ t.dec.off = 3#5)) = true := by decide

/-- R173: byte 8 is the top byte of the width. -/
theorem test_decByte_width_top :
    answers (exec (.decByte 0xAB#8) (decAt .hdr 8#5 .y 0#3))
      (fun t => decide (t.dec.width = 0xAB000001#32 ∧ t.dec.off = 9#5)) = true := by decide

/-- Section 2.8: the end inside the magic is `InvalidFormat`, from offset 3 on `TruncatedData`. -/
theorem test_decEos_kinds :
    answers (exec .decEos (decAt .hdr 2#5 .y 0#3)) (fun t => decide (t.dec.err = 2#3)) = true ∧
    answers (exec .decEos (decAt .hdr 3#5 .y 0#3)) (fun t => decide (t.dec.err = 5#3)) = true := by decide

/-- Section 2.9: RESET in `D_ERR`. -/
theorem test_reset_clears :
    answers (exec .reset (decAt .err 16#5 .q 5#3)) (fun t => decide (t.dec.phase = .idle ∧ t.dec.err = 0#3)) = true := by
  decide

/-- R173: the header of an empty image completes the transaction. -/
theorem test_fmtHeader_empty :
    answers (exec (.fmtHeader .smptec 0#32 5#32) (decAt .hdr 0#5 .y 0#3))
      (fun t => decide (t.dec.phase = .done ∧ t.dec.height = 5#32 ∧ t.dec.rem = 0#64)) = true := by decide

theorem test_fmtTriplet_emits :
    answers (exec (.fmtTriplet 0#8 60#8 52#8) (decAt .data 16#5 .y 0#3))
      (fun t => decide (t.dec.phase = .done ∧ t.dPix.length = 1 ∧ t.dec.i = 60#8)) = true := by decide

/-- R100: the value of a pure operation is recorded, the registers stay. -/
theorem test_rgb2yiq_records :
    answers (exec (.rgb2yiq .smptec 0#8 0#8 0#8) State.reset)
      (fun t => decide (t.results.length = 1 ∧ t.enc = State.reset.enc ∧ t.eOut = [])) = true := by decide

theorem test_yiq2rgb_records :
    answers (exec (.yiq2rgb .smptec 0#8 60#8 52#8) State.reset)
      (fun t => decide (t.results.length = 1 ∧ t.dec = State.reset.dec ∧ t.dPix = [])) = true := by decide

/-- Section 2.9: in `D_IDLE` a byte stays with the host. -/
theorem test_step_byte_stays :
    answers (step (State.reset.withFetchWord 16 0x059))
      (fun t => decide (t.inp.dIn = [0x059#9] ∧ t.dec = State.reset.dec)) = true := by decide

/-- A word on `E_CMD` runs as the first operation after power-on. -/
theorem test_step_first_operation :
    answers (step (State.reset.withFetchWord 72 0x10000000200000001))
      (fun t => decide (t.enc.phase = .hdr ∧ t.enc.width = 2#32 ∧ t.enc.height = 1#32 ∧ t.inp = Inputs.none)) = true := by
  decide

/-- Header bytes that are no FMT.HEADER are refused by name. -/
theorem test_step_refuses_ill_formed : step (State.reset.withFetchWord 136 0) = .refused (.illFormedItem .badConstant) := by
  rfl

/-! Witnesses: the hypotheses of each statement, met together. -/

theorem witness_wf : (Instr.fmtHeader .smptec 1#32 1#32).wf = true := by decide

theorem witness_encodeDecode :
    decode .eCmd 0x10000000200000001 = .ok (.encStart .smptec 2#32 1#32) ∧ decode .dIn 0x1FF = .ok .decEos := by
  exact ⟨rfl, rfl⟩

/-- An enabled operation, by a named turn and by the default order. -/
theorem witness_step :
    nextTurn (offer .dCmd 0 State.reset) = some .dCmd ∧
    peek .dCmd (popTurn (offer .dCmd 0 State.reset)) = some (.dCmd, 0) ∧ decode .dCmd 0 = .ok .decStart ∧
    nextTurn (encAt .hdr 0#5 1#64) = some .eHdr := by
  exact ⟨rfl, rfl, rfl, rfl⟩

theorem witness_step_not_enabled :
    nextTurn (offer .ePix 0x123456 State.reset) = some .ePix ∧
    peek .ePix (popTurn (offer .ePix 0x123456 State.reset)) = some (.ePix, 0x123456) ∧
    decode .ePix 0x123456 = .ok (.encPix 0x12#8 0x34#8 0x56#8) ∧
    enabled (.encPix 0x12#8 0x34#8 0x56#8) (popTurn (offer .ePix 0x123456 State.reset)) = false := by
  exact ⟨rfl, rfl, rfl, rfl⟩

theorem witness_not_enabled : enabled .decEos State.reset = false := by decide

theorem witness_header_progress :
    (encAt .hdr 0#5 1#64).inp.turns = [] ∧ (encAt .hdr 0#5 1#64).inp.rst = 0 ∧ (encAt .hdr 0#5 1#64).enc.phase = .hdr ∧
    (encAt .hdr 0#5 1#64).enc.off = 0#5 := by decide

/-- The invariant, with a step that changes the state. -/
theorem witness_invariant_step :
    Inv (encAt .hdr 16#5 1#64) ∧
    step (encAt .hdr 16#5 1#64) = .next { encAt .data 16#5 1#64 with eOut := [0x41#8] } := by
  exact ⟨by decide, rfl⟩

/-- The invariant in the data and error phases of DEC. -/
theorem witness_invariant_phases :
    Inv (decAt .data 16#5 .q 0#3) ∧ Inv (decAt .err 3#5 .y 3#3) ∧ Inv (encAt .data 16#5 1#64) ∧
    Inv (decAt .hdr 0#5 .y 0#3) :=
  ⟨by decide, by decide, by decide, by decide⟩

/-- R200: an operation of the nine, with each extra clause at its boundary. -/
theorem witness_transition :
    Inv (encAt .hdr 15#5 1#64) ∧ (encAt .hdr 15#5 1#64).enc.off.toNat < 16 ∧
    enabled .encHdr (encAt .hdr 15#5 1#64) = true ∧ enabled (.decByte 0#8) (decAt .idle 15#5 .y 0#3) = false ∧
    (∃ t, exec .encHdr (encAt .hdr 15#5 1#64) = .next t) ∧
    (∃ t, exec (.encPix 1#8 2#8 3#8) (encAt .data 16#5 1#64) = .next t) ∧
    (∃ t, exec .decStart (decAt .err 3#5 .y 3#3) = .next t ∧ t.dec.phase = .hdr) ∧
    headerByteGood 15 0x54#8 = true ∧ (∃ t, exec (.decByte 0x54#8) (decAt .hdr 15#5 .y 0#3) = .next t) :=
  ⟨by decide, by decide, rfl, rfl, ⟨_, rfl⟩, ⟨_, rfl⟩, ⟨_, rfl, rfl⟩, by decide, ⟨_, rfl⟩⟩

theorem witness_units :
    Inv State.reset ∧ ofEnc .encHdr = true ∧ ofDec (.decByte 0#8) = true ∧ (∃ t, exec .encHdr State.reset = .next t) ∧
    ∃ t, exec (.decByte 0#8) State.reset = .next t :=
  ⟨by decide, rfl, rfl, ⟨_, rfl⟩, ⟨_, rfl⟩⟩

theorem witness_encStart : State.reset.enc.phase = .idle ∧ (encAt .data 16#5 1#64).enc.phase = .data := by decide

/-- ENC.HDR at both ends of the header, and the phases of its other clauses. -/
theorem witness_encHdr :
    (encAt .hdr 0#5 1#64).enc.phase = .hdr ∧ (encAt .hdr 16#5 1#64).enc.off.toNat ≤ 16 ∧
    (encAt .done 16#5 0#64).enc.phase = .done ∧ State.reset.enc.phase ≠ .hdr := by decide

theorem witness_encPix : (encAt .data 16#5 1#64).enc.phase = .data ∧ State.reset.enc.phase ≠ .data := by decide

/-- A 2×1 image and an empty one. -/
theorem witness_encImage :
    [(⟨1#8, 2#8, 3#8⟩ : Rgb), ⟨4#8, 5#8, 6#8⟩].length = (2#32 : U32).toNat * (1#32 : U32).toNat ∧
    ([] : List Rgb).length = (0#32 : U32).toNat * (7#32 : U32).toNat ∧ State.reset.enc.phase = .idle := by decide

/-- The items of a 1×1 image on the ports, with the turns that take them. -/
def offeredImage : State :=
  { State.reset with
    inp := { Inputs.none with
      eCmd := [Method.smptec.bit ++ 1#32 ++ 1#32]
      ePix := [pixItem ⟨1#8, 2#8, 3#8⟩]
      turns := .eCmd :: (List.replicate 17 .eHdr ++ List.replicate 1 .ePix ++ []) } }

theorem witness_offeredImage :
    offeredImage.enc.phase = .idle ∧ offeredImage.inp.eCmd = [Method.smptec.bit ++ 1#32 ++ 1#32] ∧
    offeredImage.inp.ePix = [(⟨1#8, 2#8, 3#8⟩ : Rgb)].map pixItem ++ [] := by decide

theorem witness_sized : blackImage.sized = true := by decide

theorem witness_parsed : deserialize blackContainer = .ok blackImage := by rfl

theorem witness_empty_image : (0#32 : U32) = 0#32 ∧ deserialize (headerBytes .smptec 0#32 5#32) =
    .ok { method := .smptec, width := 0#32, height := 5#32, data := [] } := by
  exact ⟨rfl, rfl⟩

/-- A stream's bytes before offset `k` are all legal. -/
def goodBefore (s : List Byte) (k : Nat) : Bool :=
  (List.range k).all fun j =>
    match s[j]? with
    | some b => headerByteGood j b
    | none => false

/-- R181, the first and last offset of each row: an end at 0, 3 and 16, a bad byte at 0 and 16, a short data section by one
byte, and a complete one. -/
theorem witness_first_offence :
    goodBefore [] 0 = true ∧ goodBefore (blackContainer.take 3) 3 = true ∧ goodBefore (blackContainer.take 16) 16 = true ∧
    headerByteGood 0 0x79#8 = false ∧ headerByteGood 4 0x02#8 = false ∧ headerByteGood 16 0x42#8 = false ∧
    goodBefore blackContainer 17 = true ∧
    (blackContainer.take 19).length < 17 + 3 * (leValue ((blackContainer.drop 5).take 4) * leValue ((blackContainer.drop 9).take 4)) ∧
    17 + 3 * (leValue ((blackContainer.drop 5).take 4) * leValue ((blackContainer.drop 9).take 4)) ≤ blackContainer.length := by
  decide

theorem witness_decStart :
    State.reset.dec.phase = .idle ∧ (decAt .err 3#5 .y 3#3).dec.phase = .err ∧ (decAt .data 16#5 .y 0#3).dec.phase = .data := by
  decide

/-- An illegal byte at the first and the last offset. -/
theorem witness_decByte_rejects :
    (decAt .hdr 0#5 .y 0#3).dec.phase = .hdr ∧ headerByteGood (decAt .hdr 0#5 .y 0#3).dec.off.toNat 0x5A#8 = false ∧
    (decAt .hdr 16#5 .y 0#3).dec.off.toNat ≤ 16 ∧ headerByteGood (decAt .hdr 16#5 .y 0#3).dec.off.toNat 0x42#8 = false := by
  decide

/-- A legal byte at offsets 0, 4, 5, 8, 9, 12 and 15. -/
theorem witness_decByte_accepts :
    (decAt .hdr 15#5 .y 0#3).dec.phase = .hdr ∧ (decAt .hdr 15#5 .y 0#3).dec.off.toNat < 16 ∧
    headerByteGood 0 0x59#8 = true ∧ headerByteGood 4 0x01#8 = true ∧ headerByteGood 5 0xFF#8 = true ∧
    headerByteGood 8 0xFF#8 = true ∧ headerByteGood 9 0xFF#8 = true ∧ headerByteGood 12 0xFF#8 = true ∧
    headerByteGood 15 0x54#8 = true := by decide

theorem witness_decByte_completes :
    (decAt .hdr 16#5 .y 0#3).dec.phase = .hdr ∧ (decAt .hdr 16#5 .y 0#3).dec.off.toNat = 16 := by decide

theorem witness_decByte_lanes :
    (decAt .data 16#5 .y 0#3).dec.lane = .y ∧ (decAt .data 16#5 .i 0#3).dec.lane = .i ∧
    (decAt .data 16#5 .q 0#3).dec.lane = .q ∧ (decAt .data 16#5 .q 0#3).dec.phase = .data := by decide

/-- A byte on `D_IN` whose turn it is, in `D_DONE`, `D_ERR` and `D_IDLE`. -/
theorem witness_drained :
    (offer .dIn 0x0A (decAt .done 16#5 .y 0#3)).inp.turns = [.dIn] ∧
    (offer .dIn 0x0A (decAt .done 16#5 .y 0#3)).inp.dIn = [byteItem 0x0A#8] ∧
    (offer .dIn 0x0A (decAt .done 16#5 .y 0#3)).dec.phase = .done ∧
    (offer .dIn 0x0A (decAt .err 3#5 .y 3#3)).dec.phase = .err ∧ (offer .dIn 0x0A State.reset).dec.phase = .idle := by
  decide

theorem witness_decEos :
    (decAt .hdr 2#5 .y 0#3).dec.off.toNat < 3 ∧ 3 ≤ (decAt .hdr 3#5 .y 0#3).dec.off.toNat ∧
    (decAt .hdr 3#5 .y 0#3).dec.phase = .hdr ∧ (decAt .data 16#5 .q 0#3).dec.phase = .data ∧
    (decAt .done 16#5 .y 0#3).dec.phase = .done := by decide

/-- An accepted stream, an error in the header, and an error in the data. -/
theorem witness_decStream :
    State.reset.dec.phase = .idle ∧ deserialize blackContainer = .ok blackImage ∧
    deserialize (blackContainer.take 5) = .error .truncatedData ∧
    deserialize (blackContainer.take 18) = .error .truncatedData := by
  exact ⟨rfl, rfl, rfl, rfl⟩

/-- The items of a stream on the ports, with the turns that take them. -/
def offeredStream : State :=
  { State.reset with
    inp := { Inputs.none with
      dCmd := 1
      dIn := blackContainer.map byteItem ++ [0x100#9]
      turns := .dCmd :: (List.replicate (blackContainer.length + 1) .dIn ++ []) } }

theorem witness_offeredStream :
    offeredStream.dec.phase = .idle ∧ 1 ≤ offeredStream.inp.dCmd ∧
    offeredStream.inp.dIn = blackContainer.map byteItem ++ 0x100#9 :: [] ∧
    offeredStream.inp.turns = .dCmd :: (List.replicate (blackContainer.length + 1) .dIn ++ []) := by decide

/-- ENC.IMAGE of an empty image runs from power-on. -/
theorem witness_encodedOutput :
    ([] : List Rgb).length = (0#32 : U32).toNat * (5#32 : U32).toNat ∧ State.reset.enc.phase = .idle ∧
    State.reset.dec.phase = .idle ∧ ∃ t, execList (encImage .smptec 0#32 5#32 []) State.reset = .next t :=
  ⟨by decide, rfl, rfl, ⟨_, rfl⟩⟩

/-- DEC.BYTE and DEC.EOS each raise somewhere. -/
theorem witness_raises :
    (∃ t, exec (.decByte 0#8) (decAt .hdr 0#5 .y 0#3) = .next t ∧ t.dec.phase = .err) ∧
    (∃ t, exec .decEos (decAt .data 16#5 .i 0#3) = .next t ∧ t.dec.phase = .err) ∧
    (decAt .hdr 0#5 .y 0#3).dec.phase ≠ .err :=
  ⟨⟨_, rfl, rfl⟩, ⟨_, rfl, rfl⟩, by decide⟩

theorem witness_sticky :
    (decAt .err 3#5 .y 3#3).dec.phase = .err ∧ ∃ t, exec (.decByte 0x59#8) (decAt .err 3#5 .y 3#3) = .next t :=
  ⟨rfl, ⟨_, rfl⟩⟩

theorem witness_fmtHeader :
    (decAt .hdr 0#5 .y 0#3).dec.phase = .hdr ∧ (decAt .hdr 0#5 .y 0#3).dec.off = 0#5 := by decide

theorem witness_fmtTriplet :
    (decAt .data 16#5 .y 0#3).dec.phase = .data ∧ (decAt .data 16#5 .y 0#3).dec.lane = .y := by decide

theorem witness_det : candNtsc1953.det ≠ 0 ∧ candSmptec.det ≠ 0 := by decide +kernel

/-- The hypotheses on coefficients (legal, luma weights not negative, chroma rows of sum 0), and on channels. -/
theorem witness_coefficients :
    candSmptec.legal = true ∧ 0 ≤ candSmptec.row0.x ∧ 0 ≤ candSmptec.row0.y ∧ 0 ≤ candSmptec.row0.z ∧
    candSmptec.row0.x + candSmptec.row0.y + candSmptec.row0.z = 1 ∧
    candSmptec.row1.x + candSmptec.row1.y + candSmptec.row1.z = 0 ∧
    candSmptec.row2.x + candSmptec.row2.y + candSmptec.row2.z = 0 ∧ (3#8 : Byte).toNat ≤ (4#8 : Byte).toNat := by
  decide +kernel

/-- Rounding clauses: bounds in order, a negative and a non-negative value, a tie on which the two rules differ. -/
theorem witness_rounding :
    (0 : Int) ≤ 119 ∧ (-5 / 2 : Exact) < 0 ∧ (0 : Exact) ≤ 5 / 2 ∧ roundHalfAway (5 / 2) ≠ roundHalfEven (5 / 2) := by
  decide +kernel

/-- The candidate sets in the integer form of R113, with the determinants of 93_implementation_defined.md G1. -/
theorem witness_integerForm :
    IntMat.coeff ⟨3000, 5900, 1100, 5990, -2773, -3217, 2130, -5251, 3121⟩ = candSmptec ∧
    candSmptec.det = -25547 / 100000 ∧ candNtsc1953.det = -25339903 / 100000000 := by decide +kernel

end Sys2Proof.Tests
end

/-! SUPPORT, and the obligation of R112 and R128: rounding is monotone and fixes integers, and the laws of clamping follow
from these two facts. -/

namespace Sys2Proof.Machine

theorem floor_add_half_nonneg {x : Exact} (h : 0 ≤ x) : 0 ≤ (x + 1 / 2).floor := by
  rw [Rat.le_floor_iff, Int.cast_zero]
  linarith

theorem floor_add_half_nonpos {x : Exact} (h : x < 0) : (x + 1 / 2).floor ≤ 0 := by
  rw [← Int.lt_add_one_iff, Rat.floor_lt_iff, zero_add, Int.cast_one]
  linarith

theorem floor_intCast_add_half (n : Int) : ((n : Exact) + 1 / 2).floor = n := by
  apply le_antisymm
  · rw [← Int.lt_add_one_iff, Rat.floor_lt_iff]
    push_cast
    linarith
  · rw [Rat.le_floor_iff]
    linarith

theorem rnd_of_nonneg {x : Exact} (h : 0 ≤ x) : rnd x = (x + 1 / 2).floor := by
  rw [rnd_eq, roundHalfAway, if_pos h]

theorem rnd_of_neg {x : Exact} (h : x < 0) : rnd x = -(-x + 1 / 2).floor := by
  rw [rnd_eq, roundHalfAway, if_neg (not_le.mpr h)]

theorem rnd_nonneg {x : Exact} (h : 0 ≤ x) : 0 ≤ rnd x := by
  rw [rnd_of_nonneg h]
  exact floor_add_half_nonneg h

theorem rnd_nonpos {x : Exact} (h : x < 0) : rnd x ≤ 0 := by
  rw [rnd_of_neg h]
  exact neg_nonpos.mpr (floor_add_half_nonneg (neg_pos.mpr h).le)

/-- Each branch of the rounding is a floor; across zero the signs decide. -/
theorem rnd_monotone : Monotone rnd := by
  intro x y hxy
  rcases lt_or_ge x 0 with hx | hx
  · rcases lt_or_ge y 0 with hy | hy
    · rw [rnd_of_neg hx, rnd_of_neg hy]
      exact neg_le_neg (Rat.floor_monotone (by linarith))
    · exact (rnd_nonpos hx).trans (rnd_nonneg hy)
  · rw [rnd_of_nonneg hx, rnd_of_nonneg (hx.trans hxy)]
    exact Rat.floor_monotone (by linarith)

@[simp] theorem rnd_intCast (n : Int) : rnd (n : Exact) = n := by
  rcases lt_or_ge n 0 with hn | hn
  · rw [rnd_of_neg (Int.cast_lt_zero.mpr hn), ← Int.cast_neg, floor_intCast_add_half, neg_neg]
  · rw [rnd_of_nonneg (Int.cast_nonneg hn), floor_intCast_add_half]

theorem le_rnd_of_intCast_le {n : Int} {x : Exact} (h : (n : Exact) ≤ x) : n ≤ rnd x := by
  simpa using rnd_monotone h

theorem rnd_le_of_le_intCast {n : Int} {x : Exact} (h : x ≤ (n : Exact)) : rnd x ≤ n := by
  simpa using rnd_monotone h

theorem clampInt_of_le_lo {v lo hi : Int} (hv : v ≤ lo) (h : lo ≤ hi) : clampInt v lo hi = lo := by
  unfold clampInt
  split_ifs <;> omega

theorem clampInt_of_hi_le {v lo hi : Int} (hv : hi ≤ v) (h : lo ≤ hi) : clampInt v lo hi = hi := by
  unfold clampInt
  split_ifs <;> omega

theorem clampInt_monotone {lo hi : Int} (h : lo ≤ hi) : Monotone (clampInt · lo hi) := by
  intro v v' hv
  dsimp only [clampInt]
  split_ifs <;> omega

/-- R112: rounding commutes with a clamp to integer bounds, which rounding fixes. -/
theorem clampInt_rnd (x : Exact) {lo hi : Int} (h : lo ≤ hi) :
    clampInt (rnd x) lo hi = rnd (clampNum x lo hi) := by
  unfold clampNum
  split_ifs with hlo hhi
  · rw [rnd_intCast, clampInt_of_le_lo (rnd_le_of_le_intCast hlo.le) h]
  · rw [rnd_intCast, clampInt_of_hi_le (le_rnd_of_intCast_le hhi.le) h]
  · exact clampInt_id (le_rnd_of_intCast_le (not_lt.mp hlo)) (rnd_le_of_le_intCast (not_lt.mp hhi))

theorem clampNum_nonneg {x hi : Exact} (h : 0 ≤ hi) : 0 ≤ clampNum x 0 hi := by
  unfold clampNum
  split_ifs with hlo hhi
  · exact le_refl 0
  · exact h
  · exact not_lt.mp hlo

theorem mul_clampNum {k : Exact} (hk : 0 < k) (x lo hi : Exact) :
    k * clampNum x lo hi = clampNum (k * x) (k * lo) (k * hi) := by
  simp only [clampNum, mul_lt_mul_iff_right₀ hk, mul_ite]

/-- The scaled real clamp of R123 is the clamp to the integer bounds 0 and 255 of the scaled value. -/
theorem scaled_clampNum (c : Exact) :
    255 * clampNum c 0 1 = clampNum (255 * c) (0 : Int) (255 : Int) := by
  rw [mul_clampNum (by norm_num)]
  norm_num

/-- R128: clamping only after rounding gives the same value. -/
theorem rnd_scaled_clampNum (c : Exact) :
    rnd (255 * clampNum c 0 1) = clampInt (rnd (255 * c)) 0 255 := by
  rw [scaled_clampNum, clampInt_rnd _ (by decide)]

theorem roundHalfEven_le_floor_add_one (x : Exact) : roundHalfEven x ≤ x.floor + 1 := by
  dsimp only [roundHalfEven]
  split_ifs <;> omega

theorem roundHalfEven_nonpos {x : Exact} (h : x < 0) : roundHalfEven x ≤ 0 := by
  have hf : x.floor < 0 := Rat.floor_lt_iff.mpr (by simpa using h)
  have := roundHalfEven_le_floor_add_one x
  omega

theorem clampInt_rnd_eq_floor_form (x : Exact) {hi : Int} (h : 0 ≤ hi) :
    clampInt (rnd x) 0 hi = if 0 ≤ x then clampInt (x + 1 / 2).floor 0 hi else 0 := by
  split_ifs with hx
  · rw [rnd_of_nonneg hx]
  · exact clampInt_of_le_lo (rnd_nonpos (not_le.mp hx)) h

theorem idle_second_clamp (c : Exact) :
    0 ≤ rnd (255 * clampNum c 0 1) ∧ rnd (255 * clampNum c 0 1) ≤ 255 ∧
    clampInt (rnd (255 * clampNum c 0 1)) 0 255 = rnd (255 * clampNum c 0 1) ∧
    clampInt (rnd (255 * c)) 0 255 = rnd (255 * clampNum c 0 1) ∧
    rnd (255 * clampNum c 0 1) = (255 * clampNum c 0 1 + 1 / 2).floor := by
  have hnum : 0 ≤ 255 * clampNum c 0 1 := mul_nonneg (by norm_num) (clampNum_nonneg zero_le_one)
  have hlo : 0 ≤ rnd (255 * clampNum c 0 1) := rnd_nonneg hnum
  have hhi : rnd (255 * clampNum c 0 1) ≤ 255 := by
    rw [rnd_scaled_clampNum]
    exact clampInt_hi (by decide)
  exact ⟨hlo, hhi, clampInt_id hlo hhi, (rnd_scaled_clampNum c).symm, rnd_of_nonneg hnum⟩

/-- Settles O56: the clauses are the laws above, all from monotonicity and the fixed integers. -/
theorem roundingAndClamping : Obligations.RoundingAndClamping :=
  ⟨fun _ _ h => rnd_monotone h, rnd_intCast, fun x _ _ h => clampInt_rnd x h,
    fun _ h => ⟨rnd_nonpos h, floor_add_half_nonpos h, roundHalfEven_nonpos h⟩,
    fun _ h => rnd_of_nonneg h, fun x _ h => clampInt_rnd_eq_floor_form x h, idle_second_clamp⟩

end Sys2Proof.Machine

/-! The obligations of 40_rgb2yiq.md R107 to R111, from the components of RGB2YIQ and its values on greys. -/

namespace Sys2Proof.Machine

/-- The three components of R100 with the constants of R8. -/
theorem rgb2yiq_eq (c : Mat3) (p : Rgb) :
    rgb2yiq c p =
      ⟨storeComponent (dot c.row0 (normalise p)) 100, storeComponent (dot c.row1 (normalise p) + 5957 / 10000) 119,
        storeComponent (dot c.row2 (normalise p) + 5226 / 10000) 105⟩ := rfl

theorem rgb2yiq_y (c : Mat3) (p : Rgb) : (rgb2yiq c p).y = storeComponent (dot c.row0 (normalise p)) 100 := rfl

theorem rgb2yiq_i (c : Mat3) (p : Rgb) :
    (rgb2yiq c p).i = storeComponent (dot c.row1 (normalise p) + 5957 / 10000) 119 := rfl

theorem rgb2yiq_q (c : Mat3) (p : Rgb) :
    (rgb2yiq c p).q = storeComponent (dot c.row2 (normalise p) + 5226 / 10000) 105 := rfl

theorem storeComponent_le (x : Exact) {hi : Nat} (h : hi ≤ 255) : (storeComponent x hi).toNat ≤ hi := by
  have hhi : clampInt (rnd (Config.scale * x)) 0 hi ≤ hi := clampInt_hi (Int.natCast_nonneg hi)
  rw [← storeComponent_toNat x (Int.natCast_nonneg hi) (by omega)] at hhi
  omega

theorem storeComponent_monotone {x y : Exact} {hi : Int} (h0 : 0 ≤ hi) (h1 : hi ≤ 255) (h : x ≤ y) :
    (storeComponent x hi).toNat ≤ (storeComponent y hi).toNat := by
  have hscale : Config.scale * x ≤ Config.scale * y := mul_le_mul_of_nonneg_left h (by decide +kernel)
  rw [← Int.ofNat_le, storeComponent_toNat x h0 h1, storeComponent_toNat y h0 h1]
  exact clampInt_monotone h0 (rnd_monotone hscale)

/-- A stored component of a raw value from 0 to `hi` / 100 is the rounding itself: the clamp does not act. -/
theorem storeComponent_toNat_of_mem {x : Exact} {hi : Int} (h1 : hi ≤ 255) (hx0 : 0 ≤ x) (hx1 : 100 * x ≤ hi) :
    ((storeComponent x hi).toNat : Int) = rnd (100 * x) := by
  have hlo : 0 ≤ rnd (100 * x) := rnd_nonneg (by linarith)
  have hhi : rnd (100 * x) ≤ hi := rnd_le_of_le_intCast hx1
  exact (storeComponent_toNat x (hlo.trans hhi) h1).trans (clampInt_id hlo hhi)

theorem num_div_le_num_div {a b : Byte} (h : a.toNat ≤ b.toNat) : num a / 255 ≤ num b / 255 :=
  div_le_div_of_nonneg_right (Nat.cast_le.mpr h) (by norm_num)

/-- A weighted sum of the channels does not fall when no weight is negative and no channel falls. -/
theorem dot_normalise_le {w : Vec3} {p p' : Rgb} (hx : 0 ≤ w.x) (hy : 0 ≤ w.y) (hz : 0 ≤ w.z)
    (hr : p.r.toNat ≤ p'.r.toNat) (hg : p.g.toNat ≤ p'.g.toNat) (hb : p.b.toNat ≤ p'.b.toNat) :
    dot w (normalise p) ≤ dot w (normalise p') :=
  add_le_add (add_le_add (mul_le_mul_of_nonneg_left (num_div_le_num_div hr) hx)
    (mul_le_mul_of_nonneg_left (num_div_le_num_div hg) hy)) (mul_le_mul_of_nonneg_left (num_div_le_num_div hb) hz)

/-- On a grey a row acts through its sum only. -/
theorem dot_normalise_grey (w : Vec3) (v : Byte) :
    dot w (normalise ⟨v, v, v⟩) = (w.x + w.y + w.z) * (num v / 255) := by
  simp only [dot, normalise]
  ring

theorem dot_normalise_black (w : Vec3) : dot w (normalise ⟨0#8, 0#8, 0#8⟩) = 0 := by
  rw [dot_normalise_grey]
  simp [num]

theorem dot_normalise_white (w : Vec3) : dot w (normalise ⟨255#8, 255#8, 255#8⟩) = w.x + w.y + w.z := by
  rw [dot_normalise_grey]
  simp [num]

theorem dot_normalise_grey_of_sum_one {w : Vec3} (h : w.x + w.y + w.z = 1) (v : Byte) :
    dot w (normalise ⟨v, v, v⟩) = num v / 255 := by
  rw [dot_normalise_grey, h, one_mul]

theorem dot_normalise_grey_of_sum_zero {w : Vec3} (h : w.x + w.y + w.z = 0) (v : Byte) :
    dot w (normalise ⟨v, v, v⟩) = 0 := by
  rw [dot_normalise_grey, h, zero_mul]

theorem luma_sum_of_legal {c : Mat3} (h : c.legal = true) : c.row0.x + c.row0.y + c.row0.z = 1 := by
  rw [Mat3.legal, Bool.and_eq_true, decide_eq_true_eq] at h
  exact h.1

theorem storeComponent_zero : storeComponent 0 100 = 0#8 := by decide +kernel

/-- The stored `I` of raw chroma 0 is the rounded offset. -/
theorem storeComponent_offI : storeComponent (0 + 5957 / 10000) 119 = 60#8 := by decide +kernel

/-- The stored `Q` of raw chroma 0 is the rounded offset. -/
theorem storeComponent_offQ : storeComponent (0 + 5226 / 10000) 105 = 52#8 := by decide +kernel

/-- Settles O51: black has raw values 0 under every matrix, so only the offsets are stored. -/
theorem blackFixedPoint : Obligations.BlackFixedPoint := by
  refine ⟨fun c => ?_, by decide +kernel⟩
  rw [rgb2yiq_eq, dot_normalise_black, dot_normalise_black, dot_normalise_black, storeComponent_zero,
    storeComponent_offI, storeComponent_offQ]

/-- Settles O52: white has channels 1, so each raw value is the sum of its row (R108). -/
theorem whiteFixedPoint : Obligations.WhiteFixedPoint := by
  intro c hc
  have hluma : dot c.row0 (normalise ⟨255#8, 255#8, 255#8⟩) = 1 := by
    rw [dot_normalise_white, luma_sum_of_legal hc]
  refine ⟨?_, ?_, ?_, ?_⟩
  · rw [hluma]
    decide +kernel
  · rw [rgb2yiq_y, hluma]
    decide +kernel
  · rw [rgb2yiq_i, dot_normalise_white]
    exact storeComponent_toNat _ (by decide) (by decide)
  · rw [rgb2yiq_q, dot_normalise_white]
    exact storeComponent_toNat _ (by decide) (by decide)

/-- Settles O53: each component is clamped to its own bound (R105). -/
theorem encodedTripletInDomain : Obligations.EncodedTripletInDomain := by
  intro c p
  have hy : (rgb2yiq c p).y.toNat ≤ 100 := storeComponent_le _ (by decide)
  have hi : (rgb2yiq c p).i.toNat ≤ 119 := storeComponent_le _ (by decide)
  have hq : (rgb2yiq c p).q.toNat ≤ 105 := storeComponent_le _ (by decide)
  simp [Triplet.inDomain, hy, hi, hq]

/-- Settles O54: the weighted sum, the rounding and the clamp are each monotone; the greys 127 and 128 have the raw values
127/255 and 128/255 under every legal matrix, and both scaled values round to 50. -/
theorem lumaWeaklyMonotone : Obligations.LumaWeaklyMonotone := by
  refine ⟨fun c p p' hx hy hz hr hg hb => ?_, fun c hc => ?_⟩
  · exact storeComponent_monotone (by decide) (by decide) (dot_normalise_le hx hy hz hr hg hb)
  · simp only [rgb2yiq_y, dot_normalise_grey_of_sum_one (luma_sum_of_legal hc)]
    decide +kernel

/-- Settles O55: on a grey the luma row gives v/255 and the chroma rows give 0. -/
theorem greysHaveBlackChroma : Obligations.GreysHaveBlackChroma := by
  intro c v h0 h1 h2
  have hI : dot c.row1 (normalise ⟨v, v, v⟩) = 0 := dot_normalise_grey_of_sum_zero h1 v
  have hQ : dot c.row2 (normalise ⟨v, v, v⟩) = 0 := dot_normalise_grey_of_sum_zero h2 v
  refine ⟨hI, hQ, ?_, ?_, ?_⟩
  · have hv : num v / 255 ≤ num 255#8 / 255 := num_div_le_num_div (Nat.le_of_lt_succ v.isLt)
    have hone : num 255#8 / 255 = 1 := by simp [num]
    rw [rgb2yiq_y, dot_normalise_grey_of_sum_one h0, mul_div_assoc]
    refine storeComponent_toNat_of_mem (by decide) (div_nonneg (Nat.cast_nonneg _) (by norm_num)) ?_
    push_cast
    linarith
  · rw [rgb2yiq_i, hI, storeComponent_offI]
  · rw [rgb2yiq_q, hQ, storeComponent_offQ]

end Sys2Proof.Machine

/-! The operations of unit ENC (42_serializer.md R145 to R147): when each is enabled and the whole state it answers. -/

namespace Sys2Proof.Machine

theorem enabled_encStart_iff (m : Method) (w h : U32) (s : State) :
    enabled (.encStart m w h) s = true ↔ s.enc.phase = .idle ∨ s.enc.phase = .done := by
  simp [enabled]

theorem enabled_encHdr_iff (s : State) : enabled .encHdr s = true ↔ s.enc.phase = .hdr := by
  simp [enabled]

theorem enabled_encPix_iff (r g b : Byte) (s : State) :
    enabled (.encPix r g b) s = true ↔ s.enc.phase = .data := by
  simp [enabled]

/-- The registers of ENC at the start of a transaction (R145). -/
def Enc.started (m : Method) (w h : U32) : Enc :=
  { phase := .hdr, method := m, width := w, height := h, off := 0#5, rem := pixelCount w h }

theorem exec_encStart_of_closed (m : Method) (w h : U32) {s : State} (hs : s.enc.phase = .idle ∨ s.enc.phase = .done) :
    exec (.encStart m w h) s = .next (s.setEnc (Enc.started m w h)) :=
  if_pos ((enabled_encStart_iff m w h s).mpr hs)

theorem exec_encHdr_of_headerByte {s : State} {b : Byte} (hs : s.enc.phase = .hdr)
    (hb : headerByte s.enc.method s.enc.width s.enc.height s.enc.off.toNat = some b) :
    exec .encHdr s = .next ((s.emitBytes [b]).setEnc s.enc.afterHeaderByte) := by
  rw [exec_encHdr, execEncHdr, if_pos ((enabled_encHdr_iff s).mpr hs), hb]

theorem exec_encPix_of_data (r g b : Byte) {s : State} (hs : s.enc.phase = .data) :
    exec (.encPix r g b) s =
      .next ((s.emitBytes (tripletBytes (rgb2yiq (Config.coeff s.enc.method).mat ⟨r, g, b⟩))).setEnc
        s.enc.afterPixel) :=
  if_pos ((enabled_encPix_iff r g b s).mpr hs)

/-- Settles O19: the started registers hold the exact product, and an open phase is neither `E_IDLE` nor `E_DONE`. -/
theorem encStartOpensTransaction : Obligations.EncStartOpensTransaction := by
  intro m w h s
  refine ⟨fun hs => ⟨pixelCount w h, pixelCount_toNat w h, exec_encStart_of_closed m w h hs⟩, fun hs => ?_⟩
  rw [← Bool.not_eq_true, enabled_encStart_iff]
  rcases hs with hs | hs <;> simp [hs]

/-- Settles O22: in `E_DATA` the phase ENC.PIX keeps is `E_DATA`. -/
theorem encPixEncodesPixel : Obligations.EncPixEncodesPixel := by
  intro r g b s
  refine ⟨fun hs => ?_, fun hs => ?_⟩
  · rw [exec_encPix_of_data r g b hs, Enc.afterPixel, hs]
    rfl
  · rwa [← Bool.not_eq_true, enabled_encPix_iff]

end Sys2Proof.Machine

/-! The container layout (42_serializer.md R140, R141): the header bytes as numbers, and `serialize` as a sequence of
writes, each at the end of what is already written. -/

namespace Sys2Proof.Machine

theorem toNat_methodByte (m : Method) : (methodByte m).toNat = if m = .smptec then 1 else 0 := by
  cases m <;> rfl

/-- The bytes of a little-endian field are its digits in base 256 (20_memory.md R52). -/
theorem map_toNat_leBytes (v : U32) :
    (leBytes v).map BitVec.toNat =
      [v.toNat % 256, v.toNat / 2 ^ 8 % 256, v.toNat / 2 ^ 16 % 256, v.toNat / 2 ^ 24 % 256] := by
  simp [leBytes, BitVec.extractLsb'_toNat, Nat.shiftRight_eq_div_pow]

/-- Settles O20: the constants are R71's, the fields are their base-256 digits. -/
theorem headerBytesByOffset : Obligations.HeaderBytesByOffset := by
  intro m w h
  simp [headerBytes, map_toNat_leBytes, toNat_methodByte, Config.magic, Config.fmtVersion, Config.sentinel]

/-- A write at the end of a sequence appends. -/
theorem memWrite_at_end {s : List Byte} {off : Nat} (h : off = s.length) (v : List Byte) :
    memWrite s off v = s ++ v := by
  simp [memWrite, h]

/-- Triplet `p` is written at 17 + 3p, which is where the one before it ended. -/
theorem writeData_at_end {s : List Byte} {p : Nat} (h : 17 + 3 * p = s.length) (ts : List Triplet) :
    writeData s p ts = s ++ ts.flatMap tripletBytes := by
  induction ts generalizing s p with
  | nil => simp [writeData]
  | cons t ts ih =>
    have hnext : 17 + 3 * (p + 1) = (s ++ tripletBytes t).length := by
      rw [List.length_append, tripletBytes_length, ← h]
      ring
    rw [writeData, memWrite_at_end h, ih hnext, List.flatMap_cons, List.append_assoc]

theorem serializeByWrites_eq (x : YiqImage) : serializeByWrites x = serialize x := by
  have hheader : memWrite (memWrite (memWrite (memWrite (memWrite (memWrite [] 0 Config.magic) 3 [Config.fmtVersion])
      4 [methodByte x.method]) 5 (leBytes x.width)) 9 (leBytes x.height)) 13 Config.sentinel =
        headerBytes x.method x.width x.height := rfl
  rw [serializeByWrites, hheader, writeData_at_end (headerBytes_length ..).symm, serialize]

theorem length_flatMap_tripletBytes (ts : List Triplet) : (ts.flatMap tripletBytes).length = 3 * ts.length := by
  simp [List.length_flatMap, mul_comm]

theorem sized_iff (x : YiqImage) : x.sized = true ↔ x.data.length = x.width.toNat * x.height.toNat :=
  decide_eq_true_iff

theorem serialize_length {x : YiqImage} (hx : x.sized = true) :
    (serialize x).length = 17 + 3 * (x.width.toNat * x.height.toNat) := by
  rw [serialize, List.length_append, headerBytes_length, length_flatMap_tripletBytes, (sized_iff x).mp hx]

/-- Settles O26: every write of R140 begins where the one before it ended. -/
theorem serializeWritesEveryOffset : Obligations.SerializeWritesEveryOffset :=
  ⟨serializeByWrites_eq, fun _ hx => serialize_length hx⟩

end Sys2Proof.Machine

/-! The runs of unit ENC: the header of an open transaction, its pixels, and the whole of ENC.IMAGE
(42_serializer.md R146, R147, R150). -/

namespace Sys2Proof.Machine

@[simp] theorem State.emitBytes_emitBytes (s : State) (as bs : List Byte) :
    (s.emitBytes as).emitBytes bs = s.emitBytes (as ++ bs) := by
  simp [State.emitBytes]

@[simp] theorem State.setEnc_emitBytes_setEnc (s : State) (bs : List Byte) (e e' : Enc) :
    ((s.setEnc e).emitBytes bs).setEnc e' = (s.emitBytes bs).setEnc e' := rfl

@[simp] theorem State.emitBytes_nil (s : State) : s.emitBytes [] = s := by
  simp [State.emitBytes]

/-- The phase with `n` pixels still to be accepted and the header behind (R146, R147). -/
def EPhase.awaiting (n : U64) : EPhase := if n = 0#64 then .done else .data

theorem Enc.afterHeaderByte_of_lt {e : Enc} (h : e.off.toNat < 16) :
    e.afterHeaderByte = { e with off := e.off + 1#5 } :=
  if_pos h

theorem Enc.afterHeaderByte_of_le {e : Enc} (h : 16 ≤ e.off.toNat) :
    e.afterHeaderByte = { e with phase := .awaiting e.rem } := by
  rw [Enc.afterHeaderByte, if_neg (not_lt.mpr h), EPhase.awaiting]
  split_ifs <;> rfl

/-- The header from the offset `e_off` on. -/
def Enc.headerRest (e : Enc) : List Byte := (headerBytes e.method e.width e.height).drop e.off.toNat

theorem Enc.headerRest_eq_cons {e : Enc} {b : Byte} (hb : headerByte e.method e.width e.height e.off.toNat = some b) :
    e.headerRest = b :: (headerBytes e.method e.width e.height).drop (e.off.toNat + 1) := by
  obtain ⟨hlt, rfl⟩ := List.getElem?_eq_some_iff.mp hb
  exact List.drop_eq_getElem_cons hlt

/-- With `n` header bytes behind the next one, `n + 1` times ENC.HDR emits all of them and leaves `E_HDR`. -/
theorem execList_replicate_encHdr {n : Nat} {s : State} (hs : s.enc.phase = .hdr) (hn : s.enc.off.toNat + n = 16) :
    execList (List.replicate (n + 1) .encHdr) s =
      .next ((s.emitBytes s.enc.headerRest).setEnc { s.enc with off := 16#5, phase := .awaiting s.enc.rem }) := by
  induction n generalizing s with
  | zero =>
    obtain ⟨b, hb⟩ := headerByte_some s.enc.method s.enc.width s.enc.height s.enc.off.toNat (by omega)
    have hoff : s.enc.off = 16#5 := BitVec.eq_of_toNat_eq hn
    have hend : (headerBytes s.enc.method s.enc.width s.enc.height).drop (s.enc.off.toNat + 1) = [] :=
      List.drop_of_length_le (by rw [headerBytes_length]; omega)
    rw [List.replicate_one, execList_cons_next (exec_encHdr_of_headerByte hs hb), execList_nil,
      Enc.afterHeaderByte_of_le hn.ge, Enc.headerRest_eq_cons hb, hend, ← hoff]
  | succ n ih =>
    obtain ⟨b, hb⟩ := headerByte_some s.enc.method s.enc.width s.enc.height s.enc.off.toNat (by omega)
    have hnext : (s.enc.off + 1#5).toNat = s.enc.off.toNat + 1 := BitVec.toNat_add_of_lt (by simp; omega)
    have hrest : (s.enc.off + 1#5).toNat + n = 16 := by omega
    rw [List.replicate_succ, execList_cons_next (exec_encHdr_of_headerByte hs hb),
      Enc.afterHeaderByte_of_lt (by omega),
      ih (s := (s.emitBytes [b]).setEnc { s.enc with off := s.enc.off + 1#5 }) hs hrest,
      Enc.headerRest_eq_cons hb]
    simp [Enc.headerRest, hnext]

/-- The registers of ENC with the header of a transaction behind (R146). -/
def Enc.headerDone (m : Method) (w h : U32) : Enc :=
  { Enc.started m w h with off := 16#5, phase := .awaiting (pixelCount w h) }

/-- ENC.START and 17 times ENC.HDR emit exactly the header. -/
theorem execList_encStart_header (m : Method) (w h : U32) {s : State}
    (hs : s.enc.phase = .idle ∨ s.enc.phase = .done) :
    execList (.encStart m w h :: List.replicate 17 .encHdr) s =
      .next ((s.emitBytes (headerBytes m w h)).setEnc (Enc.headerDone m w h)) := by
  rw [execList_cons_next (exec_encStart_of_closed m w h hs), execList_replicate_encHdr rfl rfl]
  rfl

theorem awaiting_pixelCount (w h : U32) :
    EPhase.awaiting (pixelCount w h) = if w.toNat * h.toNat = 0 then .done else .data := by
  rw [EPhase.awaiting]
  simp only [pixelCount_eq_zero]

/-- Settles O21: one header byte by its offset, and all 17 by the run from offset 0. -/
theorem encHdrEmitsHeaderByte : Obligations.EncHdrEmitsHeaderByte := by
  refine ⟨fun s hs hoff => ?_, fun s m w h hs => ?_, fun s hs => ?_⟩
  · obtain ⟨b, hb⟩ := headerByte_some s.enc.method s.enc.width s.enc.height _ hoff
    exact ⟨b, hb, exec_encHdr_of_headerByte hs hb⟩
  · exact ⟨_, execList_encStart_header m w h hs, rfl, awaiting_pixelCount w h⟩
  · rwa [← Bool.not_eq_true, enabled_encHdr_iff]

/-- Exactly as many pixels as `e_rem` counts: ENC.PIX for each emits their triplets and ends the transaction. -/
theorem execList_map_encPix {px : List Rgb} {s : State} (hs : s.enc.phase = .awaiting s.enc.rem)
    (hn : s.enc.rem.toNat = px.length) :
    execList (px.map fun p => .encPix p.r p.g p.b) s =
      .next ((s.emitBytes ((px.map (rgb2yiq (Config.coeff s.enc.method).mat)).flatMap tripletBytes)).setEnc
        { s.enc with phase := .done, rem := 0#64 }) := by
  induction px generalizing s with
  | nil =>
    have hrem : s.enc.rem = 0#64 := BitVec.eq_of_toNat_eq hn
    have hdone : s.enc.phase = .done := by rw [hs, hrem]; rfl
    simp only [List.map_nil, execList_nil, List.flatMap_nil, State.emitBytes_nil]
    rw [← hdone, ← hrem, State.setEnc_self]
  | cons p px ih =>
    rw [List.length_cons] at hn
    have hne : s.enc.rem ≠ 0#64 := by rintro hrem; simp [hrem] at hn
    have hdata : s.enc.phase = .data := by rw [hs, EPhase.awaiting, if_neg hne]
    have hpred : (s.enc.rem - 1#64).toNat = px.length := by bv_omega
    have hafter : s.enc.afterPixel.phase = .awaiting s.enc.afterPixel.rem := by
      rw [Enc.afterPixel, hdata]; rfl
    rw [List.map_cons, execList_cons_next (exec_encPix_of_data _ _ _ hdata), ih hafter hpred]
    simp [Enc.afterPixel]

/-- R150: ENC.IMAGE emits the container of the converted pixels and ends in `E_DONE`; only ENC and `E_OUT` change. -/
theorem execList_encImage {m : Method} {w h : U32} {px : List Rgb} {s : State}
    (hpx : px.length = w.toNat * h.toNat) (hs : s.enc.phase = .idle ∨ s.enc.phase = .done) :
    execList (encImage m w h px) s =
      .next ((s.emitBytes (serialize ⟨m, w, h, px.map (rgb2yiq (Config.coeff m).mat)⟩)).setEnc
        { Enc.headerDone m w h with phase := .done, rem := 0#64 }) := by
  have hn : (pixelCount w h).toNat = px.length := by rw [pixelCount_toNat, hpx]
  rw [encImage, ← List.cons_append, execList_append (execList_encStart_header m w h hs),
    execList_map_encPix rfl hn]
  simp [serialize, Enc.headerDone, Enc.started]

end Sys2Proof.Machine

/-! Unit DEC on a well-formed container: its header, its triplets, and DEC.STREAM of a serialized image
(43_deserializer.md R172 to R176); then the obligation of 42_serializer.md R151. -/

namespace Sys2Proof.Machine

/-- DEC.BYTE for each byte in order is DEC.BYTES (30_encoding.md R83). -/
theorem execList_map_decByte (bs : List Byte) (s : State) : execList (bs.map .decByte) s = decBytes bs s := by
  induction bs generalizing s with
  | nil => rfl
  | cons b bs ih =>
    rw [List.map_cons, execList, decBytes, exec_decByte]
    cases decByteStep b s with
    | next t => exact ih t
    | fault r => rfl
    | refused r => rfl

theorem enabled_decStart_iff (s : State) :
    enabled .decStart s = true ↔ s.dec.phase = .idle ∨ s.dec.phase = .done ∨ s.dec.phase = .err := by
  simp [enabled, or_assoc]

theorem exec_decStart_of_closed {s : State} (hs : s.dec.phase = .idle ∨ s.dec.phase = .done ∨ s.dec.phase = .err) :
    exec .decStart s = .next (s.setDec s.dec.start) :=
  if_pos ((enabled_decStart_iff s).mpr hs)

theorem exec_decEos_of_done {s : State} (hs : s.dec.phase = .done) : exec .decEos s = .next s := by
  rw [exec_decEos, execDecEos, hs]

/-- Writing byte `j` of a field replaces its eight bits and keeps every other bit (R173). -/
theorem getLsbD_setLeByte (v : U32) (j : Fin 4) (b : Byte) {n : Nat} (hn : n < 32) :
    (setLeByte v j b).getLsbD n = if n / 8 = j then b.getLsbD (n % 8) else v.getLsbD n := by
  match j with
  | 0 =>
    change (v.extractLsb' 8 24 ++ b).getLsbD n = if n / 8 = 0 then _ else _
    grind [BitVec.getLsbD_append (x := v.extractLsb' 8 24)]
  | 1 =>
    change (v.extractLsb' 16 16 ++ b ++ v.extractLsb' 0 8).getLsbD n = if n / 8 = 1 then _ else _
    grind [BitVec.getLsbD_append (x := v.extractLsb' 16 16 ++ b), BitVec.getLsbD_append (x := v.extractLsb' 16 16)]
  | 2 =>
    change (v.extractLsb' 24 8 ++ b ++ v.extractLsb' 0 16).getLsbD n = if n / 8 = 2 then _ else _
    grind [BitVec.getLsbD_append (x := v.extractLsb' 24 8 ++ b), BitVec.getLsbD_append (x := v.extractLsb' 24 8)]
  | 3 =>
    change (b ++ v.extractLsb' 0 24).getLsbD n = if n / 8 = 3 then _ else _
    grind [BitVec.getLsbD_append (x := b)]

/-- Writing the four bytes of a number makes the field that number, whatever it held. -/
theorem setLeByte_leBytes (v w : U32) :
    setLeByte (setLeByte (setLeByte (setLeByte v 0 (w.extractLsb' 0 8)) 1 (w.extractLsb' 8 8)) 2 (w.extractLsb' 16 8))
      3 (w.extractLsb' 24 8) = w := by
  apply BitVec.eq_of_getLsbD_eq
  intro n hn
  have hmod : n % 8 < 8 := Nat.mod_lt n (by decide)
  have hdiv : 8 * (n / 8) + n % 8 = n := Nat.div_add_mod n 8
  simp only [getLsbD_setLeByte, hn, BitVec.getLsbD_extractLsb', hmod, decide_true, Bool.true_and]
  grind

theorem decBytes_append_next {as bs : List Byte} {s t u : State} (h : decBytes as s = .next t)
    (h' : decBytes bs t = .next u) : decBytes (as ++ bs) s = .next u :=
  (decBytes_append h).trans h'

/-! The parts of the header in stream order, each a run of R173's cases from the offset where the part begins. -/

theorem decBytes_magic_version {s : State} (hs : s.dec.phase = .hdr) (hoff : s.dec.off = 0#5) :
    decBytes (Config.magic ++ [Config.fmtVersion]) s = .next (s.setDec { s.dec with off := 4#5 }) := by
  simp [decBytes, decByteStep, decHeaderByte, headerCase, expectByte, Dec.afterHeaderByte, hs, hoff, Config.magic]

theorem decBytes_methodByte (m : Method) {s : State} (hs : s.dec.phase = .hdr) (hoff : s.dec.off = 4#5) :
    decBytes [methodByte m] s = .next (s.setDec { s.dec with off := 5#5, method := m }) := by
  have hm : ¬1 < (methodByte m).toNat := (methodByte_le_one m).not_gt
  simp [decBytes, decByteStep, decHeaderByte, headerCase, Dec.afterHeaderByte, hs, hoff, hm]

theorem decBytes_width (w : U32) {s : State} (hs : s.dec.phase = .hdr) (hoff : s.dec.off = 5#5) :
    decBytes (leBytes w) s = .next (s.setDec { s.dec with off := 9#5, width := w }) := by
  simp [decBytes, decByteStep, decHeaderByte, headerCase, Dec.afterHeaderByte, hs, hoff, leBytes, setLeByte_leBytes]

theorem decBytes_height (h : U32) {s : State} (hs : s.dec.phase = .hdr) (hoff : s.dec.off = 9#5) :
    decBytes (leBytes h) s = .next (s.setDec { s.dec with off := 13#5, height := h }) := by
  simp [decBytes, decByteStep, decHeaderByte, headerCase, Dec.afterHeaderByte, hs, hoff, leBytes, setLeByte_leBytes]

/-- The phase with `n` triplets still to be read and the header behind (R173, R174). -/
def DPhase.awaiting (n : U64) : DPhase := if n = 0#64 then .done else .data

theorem decBytes_sentinel {s : State} (hs : s.dec.phase = .hdr) (hoff : s.dec.off = 13#5) :
    decBytes Config.sentinel s =
      .next (s.setDec { s.dec with
        off := 16#5, rem := pixelCount s.dec.width s.dec.height, lane := .y
        phase := .awaiting (pixelCount s.dec.width s.dec.height) }) := by
  simp [decBytes, decByteStep, decHeaderByte, headerCase, expectByte, Dec.afterHeaderByte, hs, hoff, Config.sentinel,
    DPhase.awaiting]

/-- The registers of DEC behind the header of a transaction (R173): those the header does not write are `d`'s. -/
def Dec.headerDone (d : Dec) (m : Method) (w h : U32) : Dec :=
  { d with off := 16#5, method := m, width := w, height := h, rem := pixelCount w h, lane := .y
           phase := .awaiting (pixelCount w h) }

/-- DEC parses the header bytes of R141 field by field, and ends behind the header. -/
theorem decBytes_headerBytes (m : Method) (w h : U32) {s : State} (hs : s.dec.phase = .hdr) (hoff : s.dec.off = 0#5) :
    decBytes (headerBytes m w h) s = .next (s.setDec (s.dec.headerDone m w h)) := by
  have hsplit : headerBytes m w h =
      (Config.magic ++ [Config.fmtVersion]) ++ ([methodByte m] ++ (leBytes w ++ (leBytes h ++ Config.sentinel))) := rfl
  rw [hsplit]
  exact decBytes_append_next (decBytes_magic_version hs hoff) <| decBytes_append_next (decBytes_methodByte m hs rfl) <|
    decBytes_append_next (decBytes_width w hs rfl) <| decBytes_append_next (decBytes_height h hs rfl) <|
    decBytes_sentinel hs rfl

theorem Dec.afterTriplet_of_data {d : Dec} (h : d.phase = .data) :
    d.afterTriplet = { d with lane := .y, rem := d.rem - 1#64, phase := .awaiting (d.rem - 1#64) } := by
  rw [Dec.afterTriplet, h, DPhase.awaiting]

@[simp] theorem State.setDec_emitPixel_setDec (s : State) (p : Rgb) (d d' : Dec) :
    ((s.setDec d).emitPixel p).setDec d' = (s.emitPixel p).setDec d' := rfl

/-- One triplet from its first lane on: its pixel is emitted and the triplet counted (R174). -/
theorem decBytes_tripletBytes (t : Triplet) {s : State} (hs : s.dec.phase = .data) (hlane : s.dec.lane = .y) :
    decBytes (tripletBytes t) s =
      .next ((s.emitPixel (yiq2rgb (Config.coeff s.dec.method).mat t)).setDec
        { s.dec with y := t.y, i := t.i, rem := s.dec.rem - 1#64, phase := .awaiting (s.dec.rem - 1#64) }) := by
  simp [tripletBytes, decBytes, decByteStep, decDataByte, Dec.afterTriplet_of_data, hs, hlane]

/-- `Emit(D_PIX, p)` for each pixel in order. -/
def State.emitPixels (s : State) (ps : List Rgb) : State := { s with dPix := s.dPix ++ ps }

/-- Exactly as many triplets as `d_rem` counts: each is converted, and the transaction ends. The two latches keep bytes of
the last triplet. -/
theorem decBytes_flatMap_tripletBytes {ts : List Triplet} {s : State} (hlane : s.dec.lane = .y)
    (hs : s.dec.phase = .awaiting s.dec.rem) (hn : s.dec.rem.toNat = ts.length) :
    ∃ y i, decBytes (ts.flatMap tripletBytes) s =
      .next ((s.emitPixels (ts.map (yiq2rgb (Config.coeff s.dec.method).mat))).setDec
        { s.dec with y := y, i := i, rem := 0#64, phase := .done }) := by
  induction ts generalizing s with
  | nil =>
    have hrem : s.dec.rem = 0#64 := BitVec.eq_of_toNat_eq hn
    have hdone : s.dec.phase = .done := by rw [hs, hrem]; rfl
    refine ⟨s.dec.y, s.dec.i, ?_⟩
    rw [← hdone, ← hrem]
    simp [State.emitPixels, State.setDec]
  | cons t ts ih =>
    rw [List.length_cons] at hn
    have hne : s.dec.rem ≠ 0#64 := by rintro hrem; simp [hrem] at hn
    have hdata : s.dec.phase = .data := by rw [hs, DPhase.awaiting, if_neg hne]
    have hpred : (s.dec.rem - 1#64).toNat = ts.length := by bv_omega
    have htriplet := decBytes_tripletBytes t hdata hlane
    obtain ⟨y, i, hrest⟩ := ih (s := (s.emitPixel (yiq2rgb (Config.coeff s.dec.method).mat t)).setDec
      { s.dec with y := t.y, i := t.i, rem := s.dec.rem - 1#64, phase := .awaiting (s.dec.rem - 1#64) }) hlane rfl hpred
    refine ⟨y, i, ?_⟩
    rw [List.flatMap_cons, decBytes_append htriplet, hrest]
    simp [State.emitPixels, State.emitPixel, State.setDec]

/-- The bytes of a serialized image, from the start of a transaction: DEC ends in `D_DONE` with the header in its
registers and the pixels on `D_PIX`. -/
theorem decBytes_serialize {x : YiqImage} (hx : x.sized = true) {s : State} (hs : s.dec.phase = .hdr)
    (hoff : s.dec.off = 0#5) :
    ∃ y i, decBytes (serialize x) s =
      .next ((s.emitPixels (x.data.map (yiq2rgb (Config.coeff x.method).mat))).setDec
        { s.dec.headerDone x.method x.width x.height with y := y, i := i, rem := 0#64, phase := .done }) := by
  have hn : (pixelCount x.width x.height).toNat = x.data.length := by rw [pixelCount_toNat, (sized_iff x).mp hx]
  obtain ⟨y, i, hdata⟩ := decBytes_flatMap_tripletBytes (ts := x.data)
    (s := s.setDec (s.dec.headerDone x.method x.width x.height)) rfl rfl hn
  exact ⟨y, i, decBytes_append_next (decBytes_headerBytes x.method x.width x.height hs hoff) hdata⟩

/-- DEC.STREAM of a serialized image: the end mark comes in `D_DONE`, where it does nothing (R176). -/
theorem execList_decStream_serialize {x : YiqImage} (hx : x.sized = true) {s : State}
    (hs : s.dec.phase = .idle ∨ s.dec.phase = .done ∨ s.dec.phase = .err) :
    ∃ y i, execList (decStream (serialize x)) s =
      .next ((s.emitPixels (x.data.map (yiq2rgb (Config.coeff x.method).mat))).setDec
        { s.dec.start.headerDone x.method x.width x.height with y := y, i := i, rem := 0#64, phase := .done }) := by
  obtain ⟨y, i, hbytes⟩ := decBytes_serialize hx (s := s.setDec s.dec.start) rfl rfl
  rw [← execList_map_decByte] at hbytes
  refine ⟨y, i, ?_⟩
  rw [decStream, execList_cons_next (exec_decStart_of_closed hs), execList_append hbytes,
    execList_cons_next (exec_decEos_of_done rfl)]
  rfl

theorem sized_of_valid {x : YiqImage} (hx : x.valid = true) : x.sized = true :=
  Bool.and_elim_left hx

/-- Pixels encoded under any coefficients are the data of a valid image (40_rgb2yiq.md R109). -/
theorem valid_of_encoded (m : Method) {w h : U32} {px : List Rgb} (hpx : px.length = w.toNat * h.toNat) (c : Mat3) :
    YiqImage.valid ⟨m, w, h, px.map (rgb2yiq c)⟩ = true := by
  have hsized : YiqImage.sized ⟨m, w, h, px.map (rgb2yiq c)⟩ = true :=
    (sized_iff _).mpr (by rw [List.length_map, hpx])
  simp [YiqImage.valid, hsized, encodedTripletInDomain c _]

/-- Settles O42: ENC.IMAGE emits a serialized valid image, and DEC reads every serialized image to its end. -/
theorem encodedOutputDecodes : Obligations.EncodedOutputDecodes := by
  intro m w h px s t hpx hsEnc hsDec ht
  rw [execList_encImage hpx hsEnc, Host.Outcome.next.injEq] at ht
  have hout : t.eOut.drop s.eOut.length = serialize ⟨m, w, h, px.map (rgb2yiq (Config.coeff m).mat)⟩ := by
    rw [← ht]
    exact List.drop_left
  have hdec : t.dec = s.dec := by rw [← ht]; rfl
  have hvalid := valid_of_encoded m hpx (Config.coeff m).mat
  obtain ⟨y, i, hu⟩ := execList_decStream_serialize (sized_of_valid hvalid) (s := t) (by rwa [hdec])
  rw [hout]
  exact ⟨_, _, hvalid, rfl, hu, rfl, rfl, rfl, rfl, rfl⟩

end Sys2Proof.Machine

/-! A successful parse (43_deserializer.md R160): `deserialize` answers the image `x` exactly when `x` is sized and the
stream begins with its container. First each check of R160 as a fact about the bytes at its offset. -/

namespace Sys2Proof.Machine

theorem bind_eq_ok_iff {ε α β : Type} (x : Except ε α) (f : α → Except ε β) (b : β) :
    (x >>= f) = .ok b ↔ ∃ a, x = .ok a ∧ f a = .ok b := by
  cases x <;> simp [bind, Except.bind]

theorem pure_eq_ok_iff {ε α : Type} (a b : α) : (pure a : Except ε α) = .ok b ↔ a = b := by
  simp [pure, Except.pure]

/-- A stream begins with two parts when it begins with the first and goes on with the second. -/
theorem append_isPrefix_iff (as bs s : List Byte) : as ++ bs <+: s ↔ as <+: s ∧ bs <+: s.drop as.length := by
  constructor
  · rintro ⟨t, rfl⟩
    simp [List.append_assoc]
  · rintro ⟨⟨t, rfl⟩, h⟩
    rw [List.drop_left] at h
    exact (List.prefix_append_right_inj as).mpr h

theorem singleton_isPrefix_drop_iff (b : Byte) (s : List Byte) (off : Nat) :
    [b] <+: s.drop off ↔ s[off]? = some b := by
  simp [List.prefix_iff_getElem?]

theorem expectAt_eq_ok_iff (s : List Byte) (e e' : ErrKind) (off : Nat) (want : List Byte) :
    expectAt s e e' off want = .ok () ↔ want <+: s.drop off := by
  induction want generalizing off with
  | nil => simp [expectAt]
  | cons b bs ih =>
    rw [← List.singleton_append, append_isPrefix_iff, singleton_isPrefix_drop_iff, List.drop_drop,
      List.singleton_append, expectAt]
    cases hx : s[off]? with
    | none => simp
    | some x =>
      by_cases hb : x = b
      · simp [hb, ih]
      · simp [hb]

/-- The two legal method bytes are those of the two methods (R163). -/
theorem methodByte_methodOfBit {b : Byte} (hb : b.toNat ≤ 1) : methodByte (methodOfBit (b.extractLsb' 0 1)) = b := by
  have : b = 0#8 ∨ b = 1#8 := by bv_omega
  rcases this with rfl | rfl <;> rfl

theorem methodAt_eq_ok_iff (s : List Byte) (m : Method) : methodAt s = .ok m ↔ [methodByte m] <+: s.drop 4 := by
  rw [singleton_isPrefix_drop_iff, methodAt]
  cases s[4]? with
  | none => simp
  | some b =>
    by_cases hb : 1 < b.toNat
    · have hne : b ≠ methodByte m := by
        rintro rfl
        exact absurd hb (methodByte_le_one m).not_gt
      simp [hb, hne]
    · have hiff : methodOfBit (b.extractLsb' 0 1) = m ↔ b = methodByte m := by
        constructor
        · rintro rfl
          exact (methodByte_methodOfBit (not_lt.mp hb)).symm
        · rintro rfl
          rw [methodByte_low, methodOfBit_bit]
      simp [hb, hiff]

/-- Reading back the bytes of a field gives the field (20_memory.md R52). -/
theorem ofNat_leValue_leBytes (v : U32) : BitVec.ofNat 32 (leValue (leBytes v)) = v := by
  apply BitVec.eq_of_toNat_eq
  have hv := v.isLt
  simp only [leBytes, leValue, BitVec.toNat_ofNat, BitVec.extractLsb'_toNat, Nat.shiftRight_eq_div_pow]
  omega

theorem leValue_lt (bs : List Byte) : leValue bs < 256 ^ bs.length := by
  induction bs with
  | nil => simp [leValue]
  | cons b bs ih =>
    have hb := b.isLt
    rw [leValue, List.length_cons, pow_succ]
    omega

theorem toNat_ofNat_leValue {bs : List Byte} (h : bs.length = 4) :
    (BitVec.ofNat 32 (leValue bs)).toNat = leValue bs := by
  have hlt := leValue_lt bs
  rw [h] at hlt
  exact Nat.mod_eq_of_lt hlt

theorem leBytes_ofNat_leValue {bs : List Byte} (h : bs.length = 4) : leBytes (BitVec.ofNat 32 (leValue bs)) = bs := by
  apply List.map_injective_iff.mpr BitVec.toNat_injective
  rw [map_toNat_leBytes, toNat_ofNat_leValue h]
  obtain ⟨b0, b1, b2, b3, rfl⟩ := List.length_eq_four.mp h
  have h0 := b0.isLt
  have h1 := b1.isLt
  have h2 := b2.isLt
  have h3 := b3.isLt
  simp only [leValue, List.map_cons, List.map_nil, List.cons.injEq, and_true]
  omega

theorem length_take_drop {s : List Byte} {off n : Nat} (h : off + n ≤ s.length) :
    ((s.drop off).take n).length = n := by
  rw [List.length_take, List.length_drop]
  omega

theorem leBytes_isPrefix_drop_iff (v : U32) (s : List Byte) (off : Nat) :
    leBytes v <+: s.drop off ↔ (memRead s off 4).map (BitVec.ofNat 32) = some v := by
  rw [memRead, List.prefix_iff_eq_take, leBytes_length]
  split_ifs with hlen
  · rw [Option.map_some, Option.some_inj]
    constructor
    · intro h
      rw [← h, ofNat_leValue_leBytes]
    · rintro rfl
      exact leBytes_ofNat_leValue (length_take_drop hlen)
  · have hne : leBytes v ≠ (s.drop off).take 4 := by
      intro h
      have hshort := congrArg List.length h
      rw [leBytes_length, List.length_take, List.length_drop] at hshort
      omega
    simp [hne]

theorem dimsAt_eq_ok_iff (s : List Byte) (w h : U32) :
    dimsAt s = .ok (w, h) ↔ leBytes w <+: s.drop 5 ∧ leBytes h <+: s.drop 9 := by
  rw [leBytes_isPrefix_drop_iff, leBytes_isPrefix_drop_iff, dimsAt]
  cases memRead s 5 4 <;> cases memRead s 9 4 <;> simp

/-- The header is accepted when each check of R160 is. -/
theorem headerOf_eq_ok_iff_checks (s : List Byte) (m : Method) (w h : U32) :
    headerOf s = .ok (m, w, h) ↔
      expectAt s .invalidFormat .invalidFormat 0 Config.magic = .ok () ∧
      expectAt s .truncatedData .unsupportedVersion 3 [Config.fmtVersion] = .ok () ∧
      methodAt s = .ok m ∧ dimsAt s = .ok (w, h) ∧
      expectAt s .truncatedData .invalidFormat 13 Config.sentinel = .ok () := by
  simp only [headerOf, bind_eq_ok_iff, pure_eq_ok_iff, Unique.exists_iff, Prod.exists, Prod.mk.injEq]
  grind

/-- The header checks of R160 accept exactly the streams that begin with header bytes (42_serializer.md R141). -/
theorem headerOf_eq_ok_iff (s : List Byte) (m : Method) (w h : U32) :
    headerOf s = .ok (m, w, h) ↔ headerBytes m w h <+: s := by
  have hparts : headerBytes m w h =
      Config.magic ++ ([Config.fmtVersion] ++ ([methodByte m] ++ (leBytes w ++ (leBytes h ++ Config.sentinel)))) := rfl
  rw [headerOf_eq_ok_iff_checks, hparts]
  simp only [expectAt_eq_ok_iff, methodAt_eq_ok_iff, dimsAt_eq_ok_iff, append_isPrefix_iff, List.drop_drop, and_assoc]
  rfl

theorem triplets_flatMap_tripletBytes (ts : List Triplet) : triplets (ts.flatMap tripletBytes) = ts := by
  induction ts with
  | nil => rfl
  | cons t ts ih => rw [List.flatMap_cons, tripletBytes, List.cons_append, List.cons_append, List.singleton_append,
      triplets, ih]

/-- Bytes that come in threes are the bytes of their triplets. -/
theorem flatMap_tripletBytes_triplets {n : Nat} {bs : List Byte} (h : bs.length = 3 * n) :
    (triplets bs).flatMap tripletBytes = bs := by
  induction n generalizing bs with
  | zero =>
    rw [List.length_eq_zero_iff.mp h]
    rfl
  | succ n ih =>
    match bs with
    | y :: i :: q :: rest =>
      have hrest : rest.length = 3 * n := by simp only [List.length_cons] at h; omega
      rw [triplets, List.flatMap_cons, ih hrest]
      rfl
    | [] | [_] | [_, _] =>
      simp only [List.length_cons, List.length_nil] at h
      omega

/-- The data section is accepted exactly when the stream goes on with the bytes of `n` triplets (R166). -/
theorem dataAt_eq_ok_iff {s : List Byte} (hs : 17 ≤ s.length) (n : Nat) (ts : List Triplet) :
    dataAt s n = .ok ts ↔ ts.length = n ∧ ts.flatMap tripletBytes <+: s.drop 17 := by
  rw [dataAt]
  constructor
  · intro h
    split_ifs at h with hlen
    injection h with h
    have hts := flatMap_tripletBytes_triplets (length_take_drop (not_lt.mp hlen))
    rw [h] at hts
    have hcount := length_flatMap_tripletBytes ts
    rw [hts, length_take_drop (not_lt.mp hlen)] at hcount
    exact ⟨by omega, hts ▸ List.take_prefix _ _⟩
  · rintro ⟨rfl, h⟩
    have hlen := h.length_le
    rw [length_flatMap_tripletBytes, List.length_drop] at hlen
    rw [if_neg (by omega), ← length_flatMap_tripletBytes, ← List.prefix_iff_eq_take.mp h,
      triplets_flatMap_tripletBytes]

theorem deserialize_eq_ok_iff_parts (s : List Byte) (x : YiqImage) :
    deserialize s = .ok x ↔
      headerOf s = .ok (x.method, x.width, x.height) ∧ dataAt s (x.width.toNat * x.height.toNat) = .ok x.data := by
  obtain ⟨m, w, h, ts⟩ := x
  simp only [deserialize, bind_eq_ok_iff, pure_eq_ok_iff, Prod.exists, YiqImage.mk.injEq]
  grind

/-- The container is all a parse looks at, and all it asks for. -/
theorem deserialize_eq_ok_iff (s : List Byte) (x : YiqImage) :
    deserialize s = .ok x ↔ x.sized = true ∧ serialize x <+: s := by
  rw [deserialize_eq_ok_iff_parts, headerOf_eq_ok_iff, sized_iff, serialize, append_isPrefix_iff, headerBytes_length]
  constructor
  · rintro ⟨hheader, hdata⟩
    obtain ⟨hn, hdata⟩ := (dataAt_eq_ok_iff hheader.length_le _ _).mp hdata
    exact ⟨hn, hheader, hdata⟩
  · rintro ⟨hn, hheader, hdata⟩
    exact ⟨hheader, (dataAt_eq_ok_iff hheader.length_le _ _).mpr ⟨hn, hdata⟩⟩

/-- Settles O27: a container begins with itself. -/
theorem containerRoundTrip : Obligations.ContainerRoundTrip :=
  fun x hx => (deserialize_eq_ok_iff _ x).mpr ⟨hx, List.prefix_rfl⟩

theorem take_of_deserialize {s : List Byte} {x : YiqImage} (h : deserialize s = .ok x) :
    serialize x = s.take (17 + 3 * (x.width.toNat * x.height.toNat)) := by
  obtain ⟨hx, hs⟩ := (deserialize_eq_ok_iff s x).mp h
  rw [← serialize_length hx]
  exact List.prefix_iff_eq_take.mp hs

/-- Settles O28: a stream that goes on behind the container still begins with it. -/
theorem trailingBytesIgnored : Obligations.TrailingBytesIgnored :=
  ⟨fun x extra hx => (deserialize_eq_ok_iff _ x).mpr ⟨hx, List.prefix_append _ extra⟩,
    fun _ _ h => take_of_deserialize h⟩

/-- Settles O29: the data section is what stands behind the 17 header bytes of the container read. -/
theorem noWrongSizedResult : Obligations.NoWrongSizedResult := by
  intro s x h
  obtain ⟨hx, hs⟩ := (deserialize_eq_ok_iff s x).mp h
  refine ⟨(sized_iff x).mp hx, serialize_length hx ▸ hs.length_le, ?_⟩
  calc x.data.flatMap tripletBytes = (serialize x).drop 17 := rfl
    _ = (s.take (17 + 3 * (x.width.toNat * x.height.toNat))).drop 17 := by rw [take_of_deserialize h]
    _ = (s.drop 17).take (3 * (x.width.toNat * x.height.toNat)) := by rw [List.drop_take, Nat.add_sub_cancel_left]

/-- Settles O30: the container of an image without triplets is its header. -/
theorem emptyImageAccepted : Obligations.EmptyImageAccepted := by
  intro m w h rest hzero
  refine (deserialize_eq_ok_iff _ _).mpr ⟨(sized_iff _).mpr ?_, List.prefix_append _ rest⟩
  rcases hzero with rfl | rfl <;> simp

end Sys2Proof.Machine

/-! The operations of unit DEC on one item (43_deserializer.md R172, R174, R176): the whole state each answers. -/

namespace Sys2Proof.Machine

theorem exec_decByte_of_data (b : Byte) {s : State} (hs : s.dec.phase = .data) :
    exec (.decByte b) s = decDataByte b s := by
  rw [exec_decByte, decByteStep_data b s hs]

theorem decDataByte_of_lane_y (b : Byte) {s : State} (hl : s.dec.lane = .y) :
    decDataByte b s = .next (s.setDec { s.dec with y := b, lane := .i }) := by
  rw [decDataByte, hl]

theorem decDataByte_of_lane_i (b : Byte) {s : State} (hl : s.dec.lane = .i) :
    decDataByte b s = .next (s.setDec { s.dec with i := b, lane := .q }) := by
  rw [decDataByte, hl]

theorem decDataByte_of_lane_q (b : Byte) {s : State} (hl : s.dec.lane = .q) :
    decDataByte b s =
      .next ((s.emitPixel (yiq2rgb (Config.coeff s.dec.method).mat ⟨s.dec.y, s.dec.i, b⟩)).setDec
        s.dec.afterTriplet) := by
  rw [decDataByte, hl]

theorem exec_decEos_of_hdr {s : State} (hs : s.dec.phase = .hdr) :
    exec .decEos s = .next (s.raise (if s.dec.off.toNat < 3 then .invalidFormat else .truncatedData)) := by
  rw [exec_decEos, execDecEos, hs]

theorem exec_decEos_of_data {s : State} (hs : s.dec.phase = .data) :
    exec .decEos s = .next (s.raise .truncatedData) := by
  rw [exec_decEos, execDecEos, hs]

theorem exec_decEos_of_err {s : State} (hs : s.dec.phase = .err) : exec .decEos s = .next s := by
  rw [exec_decEos, execDecEos, hs]

theorem enabled_decEos_iff (s : State) : enabled .decEos s = true ↔ s.dec.phase ≠ .idle := by
  simp [enabled]

/-- Settles O33: the started registers are in `D_HDR`, on which alone the status outputs depend. -/
theorem decStartOpensTransaction : Obligations.DecStartOpensTransaction := by
  intro s
  refine ⟨fun hs => ⟨_, exec_decStart_of_closed hs, rfl, rfl, rfl, rfl, rfl⟩, fun hs => ?_⟩
  rw [← Bool.not_eq_true, enabled_decStart_iff]
  rcases hs with hs | hs <;> simp [hs]

/-- Settles O37: one case per lane; in `D_DATA` the phase a triplet keeps is `D_DATA`. -/
theorem decByteDataLanes : Obligations.DecByteDataLanes := by
  intro b s hs
  rw [exec_decByte_of_data b hs]
  refine ⟨fun hl => decDataByte_of_lane_y b hl, fun hl => decDataByte_of_lane_i b hl, fun hl => ?_⟩
  rw [decDataByte_of_lane_q b hl, Dec.afterTriplet, hs]
  rfl

/-- Settles O39: one case per phase, and in `D_HDR` one per side of offset 3. -/
theorem decEosByPhase : Obligations.DecEosByPhase := by
  intro s
  refine ⟨fun hs hoff => ?_, fun hs hoff => ?_, fun hs => exec_decEos_of_data hs, fun hs => ?_, fun hs => ?_⟩
  · rw [exec_decEos_of_hdr hs, if_pos hoff]
    rfl
  · rw [exec_decEos_of_hdr hs, if_neg (not_lt.mpr hoff)]
    rfl
  · exact hs.elim exec_decEos_of_done exec_decEos_of_err
  · rw [← Bool.not_eq_true, enabled_decEos_iff]
    exact not_not.mpr hs

end Sys2Proof.Machine

/-! The first offence in a stream (43_deserializer.md R181): with every header byte before offset `k` legal, the checks
of R160 before `k` succeed and the one that looks at `k` decides. -/

namespace Sys2Proof.Machine

/-- Every header byte before offset `k` is there and legal. -/
def LegalBefore (s : List Byte) (k : Nat) : Prop := ∀ j < k, ∃ b, s[j]? = some b ∧ headerByteGood j b = true

theorem LegalBefore.le_length {s : List Byte} {k : Nat} (hs : LegalBefore s k) : k ≤ s.length := by
  by_contra! hlt
  obtain ⟨b, hb, -⟩ := hs s.length hlt
  simp at hb

theorem headerByteGood_iff_of_constant {k : Nat} {c : Byte} (hc : headerConstant k = some c) (b : Byte) :
    headerByteGood k b = true ↔ b = c := by
  simp [headerByteGood, hc]

theorem headerByteGood_four_iff (b : Byte) : headerByteGood 4 b = true ↔ b.toNat ≤ 1 :=
  decide_eq_true_iff

/-- No byte of width or height is illegal (R164). -/
theorem headerByteGood_dims {k : Nat} (h5 : 5 ≤ k) (h12 : k ≤ 12) (b : Byte) : headerByteGood k b = true := by
  interval_cases k <;> rfl

/-- Whatever stands at offset `k` is illegal there: the stream ends at `k`, or an illegal byte does. -/
def OffenceAt (s : List Byte) (k : Nat) : Prop := ∀ b, s[k]? = some b → headerByteGood k b = false

theorem offenceAt_of_none {s : List Byte} {k : Nat} (h : s[k]? = none) : OffenceAt s k := by
  simp [OffenceAt, h]

theorem offenceAt_of_some {s : List Byte} {k : Nat} {b : Byte} (h : s[k]? = some b) (hb : headerByteGood k b = false) :
    OffenceAt s k := by
  simp [OffenceAt, h, hb]

/-- Among the bytes of width and height only the stream's end offends. -/
theorem OffenceAt.eq_none {s : List Byte} {k : Nat} (hbad : OffenceAt s k) (h5 : 5 ≤ k) (h12 : k ≤ 12) :
    s[k]? = none := by
  cases hb : s[k]? with
  | none => rfl
  | some b => exact absurd (hbad b hb) (by simp [headerByteGood_dims h5 h12 b])

/-- `want` are the constant header bytes from offset `off` on. -/
def ConstantsAt (off : Nat) (want : List Byte) : Prop :=
  ∀ j (hj : j < want.length), headerConstant (off + j) = some want[j]

theorem constantsAt_magic : ConstantsAt 0 Config.magic := by unfold ConstantsAt; decide

theorem constantsAt_version : ConstantsAt 3 [Config.fmtVersion] := by unfold ConstantsAt; decide

theorem constantsAt_sentinel : ConstantsAt 13 Config.sentinel := by unfold ConstantsAt; decide

theorem ConstantsAt.head {off : Nat} {b : Byte} {bs : List Byte} (hc : ConstantsAt off (b :: bs)) :
    headerConstant off = some b :=
  hc 0 (Nat.succ_pos _)

theorem ConstantsAt.tail {off : Nat} {b : Byte} {bs : List Byte} (hc : ConstantsAt off (b :: bs)) :
    ConstantsAt (off + 1) bs := by
  intro j hj
  have := hc (j + 1) (Nat.succ_lt_succ hj)
  rwa [Nat.add_right_comm, Nat.add_assoc]

/-- A constant part that ends before the offence is accepted. -/
theorem expectAt_of_legalBefore {s want : List Byte} {k off : Nat} (e e' : ErrKind) (hs : LegalBefore s k)
    (hc : ConstantsAt off want) (hk : off + want.length ≤ k) : expectAt s e e' off want = .ok () := by
  rw [expectAt_eq_ok_iff, List.prefix_iff_getElem?]
  intro j hj
  obtain ⟨b, hb, hgood⟩ := hs (off + j) (by omega)
  rw [List.getElem?_drop, hb, (headerByteGood_iff_of_constant (hc j hj) b).mp hgood]

/-- A constant part with the offence in it raises by what stands there: nothing, or a wrong byte (R169). -/
theorem expectAt_error_of_offence {s want : List Byte} {k off : Nat} (e e' : ErrKind) (hs : LegalBefore s k)
    (hbad : OffenceAt s k) (hc : ConstantsAt off want)
    (hoff : off ≤ k) (hk : k < off + want.length) :
    expectAt s e e' off want = .error (s[k]?.elim e fun _ => e') := by
  induction want generalizing off with
  | nil =>
    rw [List.length_nil] at hk
    omega
  | cons c cs ih =>
    have hgood := headerByteGood_iff_of_constant hc.head
    rw [expectAt]
    rcases hoff.eq_or_lt with rfl | hlt
    · cases hx : s[off]? with
      | none => rfl
      | some x =>
        have hne : x ≠ c := by rw [Ne, ← hgood, hbad x hx]; decide
        exact if_neg hne
    · obtain ⟨x, hx, hxgood⟩ := hs off hlt
      rw [hx, (hgood x).mp hxgood]
      rw [List.length_cons] at hk
      exact (if_pos rfl).trans (ih hc.tail hlt (by omega))

theorem methodAt_of_legalBefore {s : List Byte} {k : Nat} (hs : LegalBefore s k) (hk : 5 ≤ k) :
    ∃ m, methodAt s = .ok m := by
  obtain ⟨b, hb, hgood⟩ := hs 4 hk
  have hle := (headerByteGood_four_iff b).mp hgood
  exact ⟨_, by rw [methodAt, hb]; exact if_neg hle.not_gt⟩

theorem methodAt_error_of_offence {s : List Byte} (hbad : OffenceAt s 4) :
    methodAt s = .error (s[4]?.elim .truncatedData fun _ => .invalidMethod) := by
  rw [methodAt]
  cases hb : s[4]? with
  | none => rfl
  | some b =>
    have hgt : ¬b.toNat ≤ 1 := by rw [← headerByteGood_four_iff, hbad b hb]; decide
    exact if_pos (not_le.mp hgt)

theorem memRead_of_le {s : List Byte} {off n : Nat} (h : off + n ≤ s.length) :
    memRead s off n = some (leValue ((s.drop off).take n)) :=
  if_pos h

theorem dimsAt_of_length {s : List Byte} (h : 13 ≤ s.length) :
    dimsAt s =
      .ok (.ofNat 32 (leValue ((s.drop 5).take 4)), .ofNat 32 (leValue ((s.drop 9).take 4))) := by
  rw [dimsAt, memRead_of_le (by omega), memRead_of_le h]

/-- Width and height end with the stream inside them (R168). -/
theorem dimsAt_error_of_short {s : List Byte} (h : s.length < 13) : dimsAt s = .error .truncatedData := by
  have hheight : memRead s 9 4 = none := if_neg (by omega)
  rw [dimsAt, hheight]
  cases memRead s 5 4 <;> rfl

/-- The error of R181 for what stands at header offset `k`: the stream's end, or an illegal byte. -/
def offenceErr (k : Nat) (found : Option Byte) : ErrKind :=
  found.elim (if k < 3 then .invalidFormat else .truncatedData) fun _ => headerErr k

theorem headerErr_of_ne {k : Nat} (h3 : k ≠ 3) (h4 : k ≠ 4) : headerErr k = .invalidFormat := by
  rw [headerErr, if_neg h3, if_neg h4]

/-! One lemma per check of R160: the checks before it succeed, and it raises the error of the offence. -/

section
variable {s : List Byte} {k : Nat}

theorem magic_of_legalBefore (hs : LegalBefore s k) (hk : 3 ≤ k) :
    expectAt s .invalidFormat .invalidFormat 0 Config.magic = .ok () :=
  expectAt_of_legalBefore _ _ hs constantsAt_magic hk

theorem version_of_legalBefore (hs : LegalBefore s k) (hk : 4 ≤ k) :
    expectAt s .truncatedData .unsupportedVersion 3 [Config.fmtVersion] = .ok () :=
  expectAt_of_legalBefore _ _ hs constantsAt_version hk

theorem headerOf_error_in_magic (hs : LegalBefore s k) (hbad : OffenceAt s k) (hk : k < 3) :
    headerOf s = .error (offenceErr k s[k]?) := by
  have herr := expectAt_error_of_offence .invalidFormat .invalidFormat hs hbad constantsAt_magic k.zero_le hk
  rw [headerOf, herr, offenceErr, if_pos hk, headerErr_of_ne (by omega) (by omega)]
  rfl

theorem headerOf_error_at_version (hs : LegalBefore s 3) (hbad : OffenceAt s 3) :
    headerOf s = .error (offenceErr 3 s[3]?) := by
  have herr := expectAt_error_of_offence .truncatedData .unsupportedVersion hs hbad constantsAt_version
    le_rfl (by decide)
  rw [headerOf, magic_of_legalBefore hs (by decide), herr]
  rfl

theorem headerOf_error_at_method (hs : LegalBefore s 4) (hbad : OffenceAt s 4) :
    headerOf s = .error (offenceErr 4 s[4]?) := by
  rw [headerOf, magic_of_legalBefore hs (by decide), version_of_legalBefore hs le_rfl, methodAt_error_of_offence hbad]
  rfl

theorem headerOf_error_in_dims (hs : LegalBefore s k) (hbad : OffenceAt s k) (h5 : 5 ≤ k) (h12 : k ≤ 12) :
    headerOf s = .error (offenceErr k s[k]?) := by
  have hend := hbad.eq_none h5 h12
  have hlen : s.length < 13 := by rw [List.getElem?_eq_none_iff] at hend; omega
  obtain ⟨m, hm⟩ := methodAt_of_legalBefore hs h5
  rw [headerOf, magic_of_legalBefore hs (by omega), version_of_legalBefore hs (by omega), hm,
    dimsAt_error_of_short hlen, hend, offenceErr, if_neg (by omega)]
  rfl

theorem headerOf_error_in_sentinel (hs : LegalBefore s k) (hbad : OffenceAt s k) (h13 : 13 ≤ k) (h16 : k ≤ 16) :
    headerOf s = .error (offenceErr k s[k]?) := by
  have herr := expectAt_error_of_offence .truncatedData .invalidFormat hs hbad constantsAt_sentinel h13
    (Nat.lt_succ_of_le h16)
  obtain ⟨m, hm⟩ := methodAt_of_legalBefore hs (by omega)
  rw [headerOf, magic_of_legalBefore hs (by omega), version_of_legalBefore hs (by omega), hm,
    dimsAt_of_length (h13.trans hs.le_length), offenceErr, if_neg (by omega), headerErr_of_ne (by omega) (by omega),
    herr]
  rfl

/-- The check that looks at the first offence decides the header's error. -/
theorem headerOf_error_of_offence (hs : LegalBefore s k) (hbad : OffenceAt s k) (hk : k ≤ 16) :
    headerOf s = .error (offenceErr k s[k]?) := by
  have hcheck : k < 3 ∨ k = 3 ∨ k = 4 ∨ (5 ≤ k ∧ k ≤ 12) ∨ 13 ≤ k := by omega
  rcases hcheck with h3 | rfl | rfl | ⟨h5, h12⟩ | h13
  · exact headerOf_error_in_magic hs hbad h3
  · exact headerOf_error_at_version hs hbad
  · exact headerOf_error_at_method hs hbad
  · exact headerOf_error_in_dims hs hbad h5 h12
  · exact headerOf_error_in_sentinel hs hbad h13 hk

end

/-- A whole legal header is accepted, with its dimensions as they stand at offsets 5 and 9. -/
theorem headerOf_of_legalBefore {s : List Byte} (hs : LegalBefore s 17) :
    ∃ m, headerOf s =
      .ok (m, .ofNat 32 (leValue ((s.drop 5).take 4)), .ofNat 32 (leValue ((s.drop 9).take 4))) := by
  obtain ⟨m, hm⟩ := methodAt_of_legalBefore hs (by decide)
  refine ⟨m, (headerOf_eq_ok_iff_checks s m _ _).mpr ⟨?_, ?_, hm, dimsAt_of_length ?_, ?_⟩⟩
  · exact magic_of_legalBefore hs (by decide)
  · exact version_of_legalBefore hs (by decide)
  · exact le_trans (by decide) hs.le_length
  · exact expectAt_of_legalBefore _ _ hs constantsAt_sentinel (by decide)

theorem deserialize_of_headerOf_error {s : List Byte} {e : ErrKind} (h : headerOf s = .error e) :
    deserialize s = .error e := by
  rw [deserialize, h]
  rfl

/-- Behind an accepted header the data section alone decides. -/
theorem deserialize_of_headerOf_ok {s : List Byte} {m : Method} {w h : U32} (hh : headerOf s = .ok (m, w, h)) :
    deserialize s = (dataAt s (w.toNat * h.toNat)).map fun ts => ⟨m, w, h, ts⟩ := by
  rw [deserialize, hh]
  rfl

theorem deserialize_of_legalBefore {s : List Byte} (hs : LegalBefore s 17) :
    ∃ m w h, deserialize s =
      (dataAt s (leValue ((s.drop 5).take 4) * leValue ((s.drop 9).take 4))).map fun ts => ⟨m, w, h, ts⟩ := by
  have hlen := hs.le_length
  obtain ⟨m, hh⟩ := headerOf_of_legalBefore hs
  have hd := deserialize_of_headerOf_ok hh
  rw [toNat_ofNat_leValue (length_take_drop (by omega)),
    toNat_ofNat_leValue (length_take_drop (by omega))] at hd
  exact ⟨m, _, _, hd⟩

/-- Settles O31: an offence in the header is decided by the check that looks at it, and behind a legal header the length of
the stream decides. -/
theorem firstOffenceDecides : Obligations.FirstOffenceDecides := by
  intro s k _ hs
  refine ⟨fun hk hlen => ?_, fun hk b hb hbad => ?_, fun hk hlen => ?_, fun hk hlen => ?_⟩
  · have hend : s[k]? = none := List.getElem?_eq_none hlen.le
    have herr := headerOf_error_of_offence hs (offenceAt_of_none hend) hk
    rw [deserialize_of_headerOf_error herr, hend]
    rfl
  · have herr := headerOf_error_of_offence hs (offenceAt_of_some hb hbad) hk
    rw [deserialize_of_headerOf_error herr, hb]
    rfl
  · subst hk
    obtain ⟨m, w, h, hd⟩ := deserialize_of_legalBefore hs
    rw [hd, dataAt, if_pos hlen]
    rfl
  · subst hk
    obtain ⟨m, w, h, hd⟩ := deserialize_of_legalBefore hs
    rw [hd, dataAt, if_neg hlen.not_gt]
    exact ⟨_, rfl⟩

end Sys2Proof.Machine

/-! Decoding an encoded image (44_pipeline.md R193, R194): the container gives the image back, and the two conversions of
one pixel meet at its index. -/

namespace Sys2Proof.Machine

theorem decodeStream_serialize (coeff : Method → Mat3) {x : YiqImage} (hx : x.sized = true) :
    decodeStream coeff (serialize x) = .ok (convertImage coeff x) := by
  rw [decodeStream, containerRoundTrip x hx]
  rfl

/-- Settles O32: the encoder's image is sized, so its container decodes to that image, converted back. -/
theorem dimensionsPreserved : Obligations.DimensionsPreserved := by
  intro coeff m w h px hpx
  rw [encodeImageCore, decodeStream_serialize coeff (sized_of_valid (valid_of_encoded m hpx (coeff m))), convertImage,
    List.map_map]
  rfl

end Sys2Proof.Machine

/-! The registers of a unit are left alone by the operations of the other one (44_pipeline.md R195). -/

namespace Sys2Proof.Machine

theorem dec_of_exec_ofEnc {i : Instr} {s t : State} (hi : ofEnc i = true) (h : exec i s = .next t) : t.dec = s.dec := by
  cases i with
  | encStart m w h' =>
    rw [exec_encStart, execEncStart] at h
    split at h <;> cases h <;> rfl
  | encHdr =>
    rw [exec_encHdr, execEncHdr] at h
    split at h
    · split at h <;> cases h
      rfl
    · cases h
      rfl
  | encPix r g b =>
    rw [exec_encPix, execEncPix] at h
    split at h <;> cases h <;> rfl
  | _ => cases hi

theorem enc_of_decByteStep {b : Byte} {s t : State} (h : decByteStep b s = .next t) : t.enc = s.enc := by
  obtain ⟨-, hb⟩ | ⟨-, hb⟩ | ⟨-, -, hb⟩ := decByteStep_cases b s
  · rw [hb, decHeaderByte] at h
    split at h <;> cases h <;> rfl
  · rw [hb, decDataByte] at h
    split at h <;> cases h <;> rfl
  · rw [hb] at h
    cases h
    rfl

theorem enc_of_decBytes {bs : List Byte} {s t : State} (h : decBytes bs s = .next t) : t.enc = s.enc := by
  induction bs generalizing s with
  | nil =>
    cases h
    rfl
  | cons b bs ih =>
    rw [decBytes] at h
    split at h
    · next u hu => exact (ih h).trans (enc_of_decByteStep hu)
    · cases h
    · cases h

theorem enc_of_exec_ofDec {i : Instr} {s t : State} (hi : ofDec i = true) (h : exec i s = .next t) : t.enc = s.enc := by
  cases i with
  | decStart =>
    rw [exec_decStart, execDecStart] at h
    split at h <;> cases h <;> rfl
  | decByte b => exact enc_of_decByteStep h
  | decEos =>
    rw [exec_decEos, execDecEos] at h
    split at h <;> cases h <;> rfl
  | fmtHeader m w h' => exact enc_of_decBytes h
  | fmtTriplet y j q => exact enc_of_decBytes h
  | _ => cases hi

end Sys2Proof.Machine

/-! DEC.BYTE in `D_HDR` (43_deserializer.md R173): a legal byte writes at most its field and counts, an illegal one
raises its error. -/

namespace Sys2Proof.Machine

/-- The three kinds of offsets in a header (R70): constants, the method and the dimensions. -/
theorem headerConstant_or_method_or_dims {k : Nat} (hk : k ≤ 16) :
    (∃ c, headerConstant k = some c) ∨ k = 4 ∨ 5 ≤ k ∧ k ≤ 12 := by
  interval_cases k <;> simp [headerConstant]

theorem headerCase_of_constant (b : Byte) {d : Dec} {c : Byte} (hk : d.off.toNat ≤ 16)
    (hc : headerConstant d.off.toNat = some c) :
    headerCase b d = some (expectByte b c (headerErr d.off.toNat) d) := by
  unfold headerCase
  generalize d.off.toNat = k at hc hk ⊢
  interval_cases k <;> cases hc <;> rfl

theorem headerCase_of_method (b : Byte) {d : Dec} (hk : d.off.toNat = 4) :
    headerCase b d =
      some (if 1 < b.toNat then .error .invalidMethod
        else .ok { d with method := methodOfBit (b.extractLsb' 0 1) }) := by
  rw [headerCase, hk]
  rfl

theorem headerCase_of_dims (b : Byte) {d : Dec} (h5 : 5 ≤ d.off.toNat) (h12 : d.off.toNat ≤ 12) :
    ∃ w h, headerCase b d = some (.ok { d with width := w, height := h }) := by
  unfold headerCase
  generalize d.off.toNat = k at h5 h12 ⊢
  interval_cases k <;> exact ⟨_, _, rfl⟩

/-- A legal byte is accepted; only the header's fields are written, and none of them by its last byte. -/
theorem headerCase_of_good {b : Byte} {d : Dec} (hk : d.off.toNat ≤ 16) (hb : headerByteGood d.off.toNat b = true) :
    ∃ m w h, headerCase b d = some (.ok { d with method := m, width := w, height := h }) ∧
      (d.off.toNat = 16 → m = d.method ∧ w = d.width ∧ h = d.height) := by
  obtain ⟨c, hc⟩ | h4 | ⟨h5, h12⟩ := headerConstant_or_method_or_dims hk
  · rw [headerByteGood_iff_of_constant hc] at hb
    refine ⟨d.method, d.width, d.height, ?_, fun _ => ⟨rfl, rfl, rfl⟩⟩
    rw [headerCase_of_constant b hk hc, expectByte, if_pos hb]
  · rw [h4, headerByteGood_four_iff] at hb
    exact ⟨_, _, _, by rw [headerCase_of_method b h4, if_neg hb.not_gt], by omega⟩
  · obtain ⟨w, h, hcase⟩ := headerCase_of_dims b h5 h12
    exact ⟨d.method, w, h, hcase, by omega⟩

theorem headerCase_of_bad {b : Byte} {d : Dec} (hk : d.off.toNat ≤ 16) (hb : headerByteGood d.off.toNat b = false) :
    headerCase b d = some (.error (headerErr d.off.toNat)) := by
  obtain ⟨c, hc⟩ | h4 | ⟨h5, h12⟩ := headerConstant_or_method_or_dims hk
  · rw [← Bool.not_eq_true, headerByteGood_iff_of_constant hc] at hb
    rw [headerCase_of_constant b hk hc, expectByte, if_neg hb]
  · rw [h4, ← Bool.not_eq_true, headerByteGood_four_iff, not_le] at hb
    rw [headerCase_of_method b h4, if_pos hb, h4]
    rfl
  · rw [headerByteGood_dims h5 h12] at hb
    cases hb

theorem Dec.afterHeaderByte_of_lt {d : Dec} (h : d.off.toNat < 16) :
    d.afterHeaderByte = { d with off := d.off + 1#5 } :=
  if_pos h

theorem Dec.afterHeaderByte_of_le {d : Dec} (h : 16 ≤ d.off.toNat) :
    d.afterHeaderByte =
      { d with rem := pixelCount d.width d.height, lane := .y, phase := .awaiting (pixelCount d.width d.height) } :=
  if_neg (not_lt.mpr h)

theorem exec_decByte_of_headerCase_ok {b : Byte} {s : State} {d : Dec} (hs : s.dec.phase = .hdr)
    (hcase : headerCase b s.dec = some (.ok d)) : exec (.decByte b) s = .next (s.setDec d.afterHeaderByte) := by
  rw [exec_decByte, decByteStep_hdr b s hs, decHeaderByte, hcase]

theorem exec_decByte_of_bad {b : Byte} {s : State} (hs : s.dec.phase = .hdr) (hk : s.dec.off.toNat ≤ 16)
    (hb : headerByteGood s.dec.off.toNat b = false) :
    exec (.decByte b) s = .next (s.raise (headerErr s.dec.off.toNat)) := by
  rw [exec_decByte, decByteStep_hdr b s hs, decHeaderByte, headerCase_of_bad hk hb]

/-- A legal byte before the last leaves DEC in the header at the next offset. -/
theorem exec_decByte_of_good_lt {b : Byte} {s : State} (hs : s.dec.phase = .hdr) (hk : s.dec.off.toNat < 16)
    (hb : headerByteGood s.dec.off.toNat b = true) :
    ∃ m w h, exec (.decByte b) s =
      .next (s.setDec { s.dec with method := m, width := w, height := h, off := s.dec.off + 1#5 }) := by
  obtain ⟨m, w, h, hcase, -⟩ := headerCase_of_good hk.le hb
  refine ⟨m, w, h, ?_⟩
  rw [exec_decByte_of_headerCase_ok hs hcase, Dec.afterHeaderByte_of_lt]
  exact hk

/-- A legal last byte ends the header; the pixels counted are those of the dimensions read. -/
theorem exec_decByte_of_good_last {b : Byte} {s : State} (hs : s.dec.phase = .hdr) (hk : s.dec.off.toNat = 16)
    (hb : headerByteGood s.dec.off.toNat b = true) :
    exec (.decByte b) s = .next (s.setDec (s.dec.headerDone s.dec.method s.dec.width s.dec.height)) := by
  obtain ⟨m, w, h, hcase, hdims⟩ := headerCase_of_good hk.le hb
  obtain ⟨rfl, rfl, rfl⟩ := hdims hk
  have hoff : s.dec.off = 16#5 := BitVec.eq_of_toNat_eq hk
  rw [exec_decByte_of_headerCase_ok hs hcase, Dec.afterHeaderByte_of_le, Dec.headerDone, ← hoff]
  exact hk.ge

end Sys2Proof.Machine

/-! The transition table (44_pipeline.md R200), one unit and one operation at a time. -/

namespace Sys2Proof.Machine

theorem eq_of_exec {s t u : State} (h : exec i s = .next t) (hu : exec i s = .next u) : t = u := by
  rw [h] at hu
  exact Host.Outcome.next.inj hu

theorem toNat_add_one_of_lt {k : BitVec 5} (h : k.toNat < 16) : (k + 1#5).toNat = k.toNat + 1 := by
  bv_omega

theorem toNat_sub_one_of_pos {n : U64} (h : 1 ≤ n.toNat) : (n - 1#64).toNat = n.toNat - 1 := by
  bv_omega

theorem EPhase.awaiting_of_pos {n : U64} (h : 1 ≤ n.toNat) : EPhase.awaiting n = .data :=
  if_neg (by rintro rfl; simp at h)

theorem EPhase.awaiting_of_zero {n : U64} (h : n.toNat = 0) : EPhase.awaiting n = .done :=
  if_pos (BitVec.eq_of_toNat_eq h)

theorem DPhase.awaiting_pixelCount (w h : U32) :
    DPhase.awaiting (pixelCount w h) = if 1 ≤ w.toNat * h.toNat then .data else .done := by
  simp only [DPhase.awaiting, pixelCount_eq_zero, Nat.one_le_iff_ne_zero, ite_not]

theorem DPhase.awaiting_pred (n : U64) : DPhase.awaiting (n - 1#64) = if n.toNat = 1 then .done else .data := by
  have hiff : n - 1#64 = 0#64 ↔ n.toNat = 1 := by bv_omega
  simp only [DPhase.awaiting, hiff]

theorem encPhase_of_encStart {m : Method} {w h : U32} {s t : State} (hen : enabled (.encStart m w h) s = true)
    (ht : exec (.encStart m w h) s = .next t) : t.enc.phase = encTarget (.encStart m w h) s.enc := by
  have hs := (enabled_encStart_iff m w h s).mp hen
  rw [eq_of_exec ht (exec_encStart_of_closed m w h hs)]
  rcases hs with hs | hs <;> simp [encTarget, hs, Enc.started]

/-- What ENC.HDR leaves in the registers of ENC, where an offset above 16 never occurs (R36). -/
theorem enc_of_encHdr {s t : State} (hs : s.enc.phase = .hdr) (hoff : s.enc.off.toNat ≤ 16)
    (ht : exec .encHdr s = .next t) : t.enc = s.enc.afterHeaderByte := by
  obtain ⟨b, hb⟩ := headerByte_some s.enc.method s.enc.width s.enc.height _ hoff
  rw [eq_of_exec ht (exec_encHdr_of_headerByte hs hb), State.setEnc_enc]

theorem encPhase_of_encHdr {s t : State} (hs : s.enc.phase = .hdr) (hoff : s.enc.off.toNat ≤ 16)
    (ht : exec .encHdr s = .next t) : t.enc.phase = encTarget .encHdr s.enc := by
  rw [enc_of_encHdr hs hoff ht]
  simp only [encTarget, hs]
  split_ifs with hlt hrem
  · rw [Enc.afterHeaderByte_of_lt hlt, hs]
  · rw [Enc.afterHeaderByte_of_le (not_lt.mp hlt), EPhase.awaiting_of_pos hrem]
  · rw [Enc.afterHeaderByte_of_le (not_lt.mp hlt), EPhase.awaiting_of_zero (by omega)]

theorem off_of_encHdr {s t : State} (hs : s.enc.phase = .hdr) (hlt : s.enc.off.toNat < 16)
    (ht : exec .encHdr s = .next t) : t.enc.off.toNat = s.enc.off.toNat + 1 := by
  rw [enc_of_encHdr hs hlt.le ht, Enc.afterHeaderByte_of_lt hlt, toNat_add_one_of_lt hlt]

theorem enc_of_encPix {r g b : Byte} {s t : State} (hs : s.enc.phase = .data)
    (ht : exec (.encPix r g b) s = .next t) :
    t.enc = { s.enc with rem := s.enc.rem - 1#64, phase := .awaiting (s.enc.rem - 1#64) } := by
  rw [eq_of_exec ht (exec_encPix_of_data r g b hs), State.setEnc_enc, Enc.afterPixel, hs, EPhase.awaiting]

theorem rem_of_encPix {r g b : Byte} {s t : State} (hs : s.enc.phase = .data) (hrem : 1 ≤ s.enc.rem.toNat)
    (ht : exec (.encPix r g b) s = .next t) : t.enc.rem.toNat = s.enc.rem.toNat - 1 := by
  rw [enc_of_encPix hs ht]
  exact toNat_sub_one_of_pos hrem

theorem encPhase_of_encPix {r g b : Byte} {s t : State} (hs : s.enc.phase = .data) (hrem : 1 ≤ s.enc.rem.toNat)
    (ht : exec (.encPix r g b) s = .next t) : t.enc.phase = encTarget (.encPix r g b) s.enc := by
  have hpred := toNat_sub_one_of_pos hrem
  rw [enc_of_encPix hs ht]
  simp only [encTarget, hs]
  split_ifs with hmany
  · exact EPhase.awaiting_of_pos (by omega)
  · exact EPhase.awaiting_of_zero (by omega)

/-- The ENC column of the table: R36 bounds `e_off` in `E_HDR` and `e_rem` in `E_DATA`. -/
theorem encPhase_of_exec {i : Instr} {s t : State} (hinv : EncInv s.enc) (hen : enabled i s = true)
    (ht : exec i s = .next t) : t.enc.phase = encTarget i s.enc := by
  obtain ⟨hhdr, hdata, -⟩ := hinv
  cases i with
  | encStart m w h => exact encPhase_of_encStart hen ht
  | encHdr =>
    have hs := (enabled_encHdr_iff s).mp hen
    exact encPhase_of_encHdr hs (hhdr hs).1 ht
  | encPix r g b =>
    have hs := (enabled_encPix_iff r g b s).mp hen
    exact encPhase_of_encPix hs (hdata hs).1 ht
  | rgb2yiq | yiq2rgb | reset =>
    cases ht
    rfl
  | decStart | decByte | decEos | fmtHeader | fmtTriplet => exact congrArg Enc.phase (enc_of_exec_ofDec rfl ht)

theorem dec_of_decStart {s t : State} (hen : enabled .decStart s = true) (ht : exec .decStart s = .next t) :
    t.dec = s.dec.start := by
  rw [eq_of_exec ht (exec_decStart_of_closed ((enabled_decStart_iff s).mp hen)), State.setDec_dec]

theorem decPhase_of_decStart {s t : State} (hen : enabled .decStart s = true) (ht : exec .decStart s = .next t) :
    t.dec.phase = decTarget .decStart s.dec := by
  rw [dec_of_decStart hen ht, Dec.start_phase]
  obtain hs | hs | hs := (enabled_decStart_iff s).mp hen <;> simp only [decTarget, hs]

theorem off_of_decByte {b : Byte} {s t : State} (hs : s.dec.phase = .hdr) (hlt : s.dec.off.toNat < 16)
    (hb : headerByteGood s.dec.off.toNat b = true) (ht : exec (.decByte b) s = .next t) :
    t.dec.off.toNat = s.dec.off.toNat + 1 := by
  obtain ⟨m, w, h, hnext⟩ := exec_decByte_of_good_lt hs hlt hb
  rw [eq_of_exec ht hnext]
  exact toNat_add_one_of_lt hlt

theorem decPhase_of_decByte_hdr {b : Byte} {s t : State} (hs : s.dec.phase = .hdr) (hoff : s.dec.off.toNat ≤ 16)
    (ht : exec (.decByte b) s = .next t) : t.dec.phase = decTarget (.decByte b) s.dec := by
  simp only [decTarget, hs]
  by_cases hb : headerByteGood s.dec.off.toNat b = true
  · rw [if_pos hb]
    rcases hoff.lt_or_eq with hlt | hlast
    · obtain ⟨m, w, h, hnext⟩ := exec_decByte_of_good_lt hs hlt hb
      rw [if_pos hlt, eq_of_exec ht hnext]
      exact hs
    · rw [if_neg hlast.not_lt, eq_of_exec ht (exec_decByte_of_good_last hs hlast hb)]
      exact DPhase.awaiting_pixelCount _ _
  · rw [if_neg hb, eq_of_exec ht (exec_decByte_of_bad hs hoff (Bool.eq_false_iff.mpr hb))]
    rfl

theorem decPhase_of_decByte_data {b : Byte} {s t : State} (hs : s.dec.phase = .data)
    (ht : exec (.decByte b) s = .next t) : t.dec.phase = decTarget (.decByte b) s.dec := by
  rw [exec_decByte_of_data b hs] at ht
  simp only [decTarget, hs]
  cases hl : s.dec.lane with
  | y =>
    rw [decDataByte_of_lane_y b hl] at ht
    cases ht
    exact hs
  | i =>
    rw [decDataByte_of_lane_i b hl] at ht
    cases ht
    exact hs
  | q =>
    rw [decDataByte_of_lane_q b hl, Dec.afterTriplet_of_data hs] at ht
    cases ht
    simp only [true_and]
    exact DPhase.awaiting_pred _

theorem decPhase_of_decByte {b : Byte} {s t : State} (hoff : s.dec.phase = .hdr → s.dec.off.toNat ≤ 16)
    (ht : exec (.decByte b) s = .next t) : t.dec.phase = decTarget (.decByte b) s.dec := by
  cases hs : s.dec.phase with
  | hdr => exact decPhase_of_decByte_hdr hs (hoff hs) ht
  | data => exact decPhase_of_decByte_data hs ht
  | idle | done | err =>
    have hsame : exec (.decByte b) s = .next s := decByteStep_other b s (by simp [hs]) (by simp [hs])
    rw [eq_of_exec ht hsame]
    simp only [decTarget, hs]

theorem decPhase_of_decEos {s t : State} (ht : exec .decEos s = .next t) :
    t.dec.phase = decTarget .decEos s.dec := by
  rw [exec_decEos, execDecEos] at ht
  split at ht <;> cases ht <;> simp [decTarget, *]

/-- The DEC column of the table: R36 bounds `d_off` in `D_HDR`. -/
theorem decPhase_of_exec {i : Instr} {s t : State} (hinv : DecInv s.dec) (hheader : ∀ m w h, i ≠ .fmtHeader m w h)
    (htriplet : ∀ y j q, i ≠ .fmtTriplet y j q) (hen : enabled i s = true) (ht : exec i s = .next t) :
    t.dec.phase = decTarget i s.dec := by
  obtain ⟨hhdr, -⟩ := hinv
  cases i with
  | decStart => exact decPhase_of_decStart hen ht
  | decByte b => exact decPhase_of_decByte (fun hs => (hhdr hs).1) ht
  | decEos => exact decPhase_of_decEos ht
  | rgb2yiq | yiq2rgb | reset =>
    cases ht
    rfl
  | encStart | encHdr | encPix => exact congrArg Dec.phase (dec_of_exec_ofEnc rfl ht)
  | fmtHeader m w h => exact absurd rfl (hheader m w h)
  | fmtTriplet y j q => exact absurd rfl (htriplet y j q)

/-- Settles O16: the two columns of the table, its counters, and the enabling conditions of R76 for its empty places. -/
theorem phaseTransitionTable : Obligations.PhaseTransitionTable := by
  refine ⟨fun i s t hinv hheader htriplet hen ht => ?_, fun s m w h a b c => ?_⟩
  · obtain ⟨henc, hdec⟩ := hinv
    refine ⟨encPhase_of_exec henc hen ht, decPhase_of_exec hdec hheader htriplet hen ht, ?_, ?_, ?_, ?_⟩
    · rintro rfl hlt
      exact off_of_encHdr ((enabled_encHdr_iff s).mp hen) hlt ht
    · rintro r g b rfl
      have hs := (enabled_encPix_iff r g b s).mp hen
      exact rem_of_encPix hs (henc.2.1 hs).1 ht
    · rintro rfl
      rw [dec_of_decStart hen ht, Dec.start_off]
    · rintro b rfl hs hlt hb
      exact off_of_decByte hs hlt hb ht
  · refine ⟨(encStartOpensTransaction m w h s).2, encHdrEmitsHeaderByte.2.2 s, fun hs => ?_,
      (decStartOpensTransaction s).2, fun hs => ⟨by simp [enabled, hs], by simp [enabled, hs]⟩⟩
    have hdata : s.enc.phase ≠ .data := by rcases hs with hs | hs | hs <;> simp [hs]
    exact (encPixEncodesPixel a b c s).2 hdata

end Sys2Proof.Machine

/-! RESET (70_reset_and_hazards.md R240). The status outputs are functions of the phases (10_state.md R31), so those of a
unit are all low in its idle phase. -/

namespace Sys2Proof.Machine

theorem encStatus_of_idle {s : State} (hs : s.enc.phase = .idle) : eBusy s = false ∧ eDone s = false := by
  simp [eBusy, eDone, hs]

theorem decStatus_of_idle {s : State} (hs : s.dec.phase = .idle) :
    dBusy s = false ∧ dHdrOk s = false ∧ dDone s = false ∧ dFail s = false := by
  simp [dBusy, dHdrOk, dDone, dFail, hs]

/-- Settles O11: RESET puts both units in their idle phase and writes no stream. -/
theorem resetMakesUnitsIdle : Obligations.ResetMakesUnitsIdle := by
  intro s
  have henc : s.afterReset.enc.phase = .idle := by simp
  have hdec : s.afterReset.dec.phase = .idle := by simp
  obtain ⟨hebusy, hedone⟩ := encStatus_of_idle henc
  exact ⟨s.afterReset, exec_reset s, henc, hdec, Dec.afterReset_err _, State.afterReset_eOut s, State.afterReset_dPix s,
    State.afterReset_results s, State.afterReset_inp s, hebusy, hedone, decStatus_of_idle hdec⟩

end Sys2Proof.Machine

/-! The items and their operations (30_encoding.md R70, R72, R74, R76): each decoder of a format against the layout
`encode` writes, first from the operation to its word, then from a word to its operation. -/

namespace Sys2Proof.Machine

/-! A number below the width of its format is decoded by that format's decoder. -/

theorem decode_rgb2yiq_toNat (x : BitVec 25) : decode .rgb2yiq x.toNat = .ok (decodePure .rgb2yiq x) := by
  simp [decode, Format.width, x.isLt]

theorem decode_yiq2rgb_toNat (x : BitVec 25) : decode .yiq2rgb x.toNat = .ok (decodePure .yiq2rgb x) := by
  simp [decode, Format.width, x.isLt]

theorem decode_eCmd_toNat (x : BitVec 65) : decode .eCmd x.toNat = .ok (decodeECmd x) := by
  simp [decode, Format.width, x.isLt]

theorem decode_ePix_toNat (x : BitVec 24) : decode .ePix x.toNat = .ok (decodeEPix x) := by
  simp [decode, Format.width, x.isLt]

theorem decode_dIn_toNat (x : BitVec 9) : decode .dIn x.toNat = .ok (decodeDIn x) := by
  simp [decode, Format.width, x.isLt]

theorem decode_header_toNat (x : BitVec 136) : decode .header x.toNat = decodeHeader x := by
  simp [decode, Format.width, x.isLt]

theorem decode_triplet_toNat (x : BitVec 24) : decode .triplet x.toNat = .ok (decodeTriplet x) := by
  simp [decode, Format.width, x.isLt]

/-! The fields of a word laid out by `encode`: a field is found in the part of the word that holds it. -/

theorem decodePure_append (mk : Method → Byte → Byte → Byte → Instr) (m : Method) (a b c : Byte) :
    decodePure mk (m.bit ++ a ++ b ++ c) = mk m a b c := by
  simp [-Nat.reduceAdd, decodePure, BitVec.extractLsb'_append_eq_of_le,
    BitVec.extractLsb'_append_eq_right]

theorem decodeECmd_append (m : Method) (w h : U32) : decodeECmd (m.bit ++ w ++ h) = .encStart m w h := by
  simp [-Nat.reduceAdd, decodeECmd, BitVec.extractLsb'_append_eq_of_le,
    BitVec.extractLsb'_append_eq_right]

theorem decodeEPix_append (r g b : Byte) : decodeEPix (r ++ g ++ b) = .encPix r g b := by
  simp [-Nat.reduceAdd, decodeEPix, BitVec.extractLsb'_append_eq_of_le,
    BitVec.extractLsb'_append_eq_right]

theorem decodeDIn_byte (b : Byte) : decodeDIn (0#1 ++ b) = .decByte b := by
  simp [-Nat.reduceAdd, decodeDIn, BitVec.extractLsb'_append_eq_of_le,
    BitVec.extractLsb'_append_eq_right]

theorem decodeTriplet_append (y i q : Byte) : decodeTriplet (q ++ i ++ y) = .fmtTriplet y i q := by
  simp [-Nat.reduceAdd, decodeTriplet, BitVec.extractLsb'_append_eq_of_le,
    BitVec.extractLsb'_append_eq_right]

theorem methodByte_high (m : Method) : (methodByte m).extractLsb' 1 7 = 0#7 := by
  cases m <;> rfl

theorem decodeHeader_append (m : Method) (w h : U32) :
    decodeHeader (0x41544144#32 ++ h ++ w ++ methodByte m ++ Config.fmtVersion ++ 0x514959#24) =
      .ok (.fmtHeader m w h) := by
  simp [-Nat.reduceAdd, decodeHeader, BitVec.extractLsb'_append_eq_of_le, BitVec.extractLsb'_append_eq_of_add_le,
    methodByte_high]

/-- Settles O1: one layout per format; an item without bits has one word. -/
theorem decodeEncodeRoundTrip : Obligations.DecodeEncodeRoundTrip := by
  intro i _
  cases i with
  | rgb2yiq m r g b => exact (decode_rgb2yiq_toNat _).trans (congrArg _ (decodePure_append _ m r g b))
  | yiq2rgb m y j q => exact (decode_yiq2rgb_toNat _).trans (congrArg _ (decodePure_append _ m y j q))
  | encStart m w h => exact (decode_eCmd_toNat _).trans (congrArg _ (decodeECmd_append m w h))
  | encPix r g b => exact (decode_ePix_toNat _).trans (congrArg _ (decodeEPix_append r g b))
  | decByte b => exact (decode_dIn_toNat _).trans (congrArg _ (decodeDIn_byte b))
  | fmtHeader m w h => exact (decode_header_toNat _).trans (decodeHeader_append m w h)
  | fmtTriplet y j q => exact (decode_triplet_toNat _).trans (congrArg _ (decodeTriplet_append y j q))
  | encHdr | decStart | decEos | reset => rfl

/-! The word of a decoded operation is put together again from its fields. -/

theorem bit_methodOfBit (x : BitVec 1) : (methodOfBit x).bit = x := by
  have hx : x = 0#1 ∨ x = 1#1 := by bv_omega
  obtain rfl | rfl := hx <;> rfl

theorem pureWord_fields (x : BitVec 25) :
    ((methodOfBit (x.extractLsb' 24 1)).bit ++ x.extractLsb' 16 8 ++ x.extractLsb' 8 8 ++ x.extractLsb' 0 8).toNat =
      x.toNat := by
  simp [-Nat.reduceAdd, bit_methodOfBit, BitVec.extractLsb'_append_extractLsb'_eq_extractLsb']

theorem encode_decodeECmd (x : BitVec 65) : encode (decodeECmd x) = x.toNat := by
  simp [-Nat.reduceAdd, decodeECmd, encode, bit_methodOfBit, BitVec.extractLsb'_append_extractLsb'_eq_extractLsb']

theorem encode_decodeEPix (x : BitVec 24) : encode (decodeEPix x) = x.toNat := by
  simp [-Nat.reduceAdd, decodeEPix, encode, BitVec.extractLsb'_append_extractLsb'_eq_extractLsb']

theorem encode_decodeTriplet (x : BitVec 24) : encode (decodeTriplet x) = x.toNat := by
  simp [-Nat.reduceAdd, decodeTriplet, encode, BitVec.extractLsb'_append_extractLsb'_eq_extractLsb']

/-- Bit 8 of a `D_IN` symbol divides its range in two halves (R74). -/
theorem dIn_bit8_iff (x : BitVec 9) : x.extractLsb' 8 1 = 1#1 ↔ 256 ≤ x.toNat := by
  have hx := x.isLt
  rw [← BitVec.toNat_inj, BitVec.extractLsb'_toNat, Nat.shiftRight_eq_div_pow]
  simp only [BitVec.toNat_ofNat]
  omega

theorem decodeDIn_of_lt {x : BitVec 9} (hx : x.toNat < 256) : decodeDIn x = .decByte (x.extractLsb' 0 8) :=
  if_neg (by rw [dIn_bit8_iff]; exact hx.not_ge)

theorem decodeDIn_of_le {x : BitVec 9} (hx : 256 ≤ x.toNat) : decodeDIn x = .decEos :=
  if_pos ((dIn_bit8_iff x).mpr hx)

theorem encode_decByte_of_lt {x : BitVec 9} (hx : x.toNat < 256) : encode (.decByte (x.extractLsb' 0 8)) = x.toNat := by
  have hbyte : (x.extractLsb' 0 8).toNat = x.toNat := by
    rw [BitVec.extractLsb'_toNat, Nat.shiftRight_zero, Nat.mod_eq_of_lt hx]
  rw [encode, BitVec.toNat_append, hbyte]
  simp

/-- The method byte whose high bits are 0 is the one of its low bit (R163). -/
theorem methodByte_methodOfBit_extract {x : BitVec 136} (hx : x.extractLsb' 33 7 = 0#7) :
    methodByte (methodOfBit (x.extractLsb' 32 1)) = x.extractLsb' 32 8 := by
  have hsplit : x.extractLsb' 33 7 ++ x.extractLsb' 32 1 = x.extractLsb' 32 8 :=
    BitVec.extractLsb'_append_extractLsb'_eq_extractLsb' rfl
  rw [methodByte, bit_methodOfBit, ← hsplit, hx]
  exact BitVec.setWidth_eq_append (by decide)

/-- FMT.HEADER accepts only words with R70's constants, and those it puts together again. -/
theorem decodeHeader_eq_ok {x : BitVec 136} {i : Instr} (h : decodeHeader x = .ok i) :
    i.format = .header ∧ encode i = x.toNat := by
  unfold decodeHeader at h
  split_ifs at h with hmagic hversion hmethod hsentinel
  cases h
  refine ⟨rfl, ?_⟩
  rw [not_not] at hmagic hversion hmethod hsentinel
  rw [encode, methodByte_methodOfBit_extract hmethod, ← hmagic, ← hversion, ← hsentinel]
  simp [-Nat.reduceAdd, BitVec.extractLsb'_append_extractLsb'_eq_extractLsb']

/-- A number that decodes has no bit above its format's width (R74). -/
theorem lt_of_decode {f : Format} {w : Nat} {i : Instr} (h : decode f w = .ok i) : w < 2 ^ f.width := by
  by_contra hw
  unfold decode at h
  rw [if_pos (not_lt.mp hw)] at h
  cases h

/-- Settles O2: a decoded number is below its format's width, so it is a word, and the word's fields give it back. -/
theorem encodeDecodeRoundTrip : Obligations.EncodeDecodeRoundTrip := by
  intro f w i h
  obtain ⟨x, rfl⟩ : ∃ x : BitVec f.width, w = x.toNat := ⟨BitVec.ofNatLT w (lt_of_decode h), rfl⟩
  cases f with
  | rgb2yiq =>
    cases (decode_rgb2yiq_toNat x).symm.trans h
    exact ⟨rfl, fun _ => pureWord_fields x, nofun⟩
  | yiq2rgb =>
    cases (decode_yiq2rgb_toNat x).symm.trans h
    exact ⟨rfl, fun _ => pureWord_fields x, nofun⟩
  | eCmd =>
    cases (decode_eCmd_toNat x).symm.trans h
    exact ⟨rfl, fun _ => encode_decodeECmd x, nofun⟩
  | ePix =>
    cases (decode_ePix_toNat x).symm.trans h
    exact ⟨rfl, fun _ => encode_decodeEPix x, nofun⟩
  | dIn =>
    replace h := (decode_dIn_toNat x).symm.trans h
    rcases lt_or_ge x.toNat 256 with hx | hx
    · rw [decodeDIn_of_lt hx] at h
      cases h
      exact ⟨rfl, fun _ => encode_decByte_of_lt hx, nofun⟩
    · rw [decodeDIn_of_le hx] at h
      cases h
      exact ⟨rfl, fun hne => absurd rfl hne, fun _ => ⟨hx, x.isLt⟩⟩
  | header =>
    replace h := (decode_header_toNat x).symm.trans h
    obtain ⟨hf, hword⟩ := decodeHeader_eq_ok h
    exact ⟨hf, fun _ => hword, by rintro rfl; cases hf⟩
  | triplet =>
    cases (decode_triplet_toNat x).symm.trans h
    exact ⟨rfl, fun _ => encode_decodeTriplet x, nofun⟩
  | auto | dCmd | rst =>
    have hx : x.toNat = 0 := Nat.lt_one_iff.mp x.isLt
    rw [hx] at h ⊢
    cases h
    exact ⟨rfl, fun _ => rfl, nofun⟩

/-- Settles O3: each word decodes by evaluation. -/
theorem sampleWordsDecode : Obligations.SampleWordsDecode := by
  unfold Obligations.SampleWordsDecode
  decide +kernel

/-- Settles O4: bit 8 is set in the upper half of the symbols, and the low eight bits are the byte. -/
theorem dInBit8SelectsOperation : Obligations.DInBit8SelectsOperation := by
  intro x
  have hbit : x.extractLsb' 8 1 = .ofBool (x.getLsbD 8) := by
    ext n hn
    obtain rfl := Nat.lt_one_iff.mp hn
    simp
  have hbyte : x.extractLsb' 0 8 = x.setWidth 8 := (BitVec.setWidth_eq_extractLsb' (by decide)).symm
  rw [decode_dIn_toNat, decodeDIn, hbit, hbyte]
  cases x.getLsbD 8 <;> rfl

end Sys2Proof.Machine

/-! The enabling conditions (30_encoding.md R76), the operations that are not enabled (00_scope.md R16), one step as the
performance of the operation whose turn it is, and the status outputs (10_state.md R31). -/

namespace Sys2Proof.Machine

theorem enabled_decByte_iff (b : Byte) (s : State) : enabled (.decByte b) s = true ↔ s.dec.phase ≠ .idle := by
  simp [enabled]

theorem enabled_fmtHeader_iff (m : Method) (w h : U32) (s : State) :
    enabled (.fmtHeader m w h) s = true ↔ s.dec.phase ≠ .idle := by
  simp [enabled]

theorem enabled_fmtTriplet_iff (y i q : Byte) (s : State) :
    enabled (.fmtTriplet y i q) s = true ↔ s.dec.phase ≠ .idle := by
  simp [enabled]

/-- Settles O8: the condition of each row, as it stands. -/
theorem enabledExactlyInItsPhases : Obligations.EnabledExactlyInItsPhases :=
  fun s m a b c w h => ⟨rfl, rfl, enabled_encStart_iff m w h s, enabled_encHdr_iff s, enabled_encPix_iff a b c s,
    enabled_decStart_iff s, enabled_decByte_iff a s, enabled_decEos_iff s, rfl, enabled_fmtHeader_iff m w h s,
    enabled_fmtTriplet_iff a b c s⟩

theorem decByteStep_of_idle (b : Byte) {s : State} (hs : s.dec.phase = .idle) : decByteStep b s = .next s :=
  decByteStep_other b s (by simp [hs]) (by simp [hs])

/-- In `D_IDLE`, `D_DONE` and `D_ERR` any number of bytes changes nothing (43_deserializer.md R175). -/
theorem decBytes_other (bs : List Byte) {s : State} (h : s.dec.phase ≠ .hdr) (h' : s.dec.phase ≠ .data) :
    decBytes bs s = .next s := by
  induction bs with
  | nil => rfl
  | cons b bs ih => rw [decBytes_cons_next (decByteStep_other b s h h'), ih]

theorem decBytes_of_idle (bs : List Byte) {s : State} (hs : s.dec.phase = .idle) : decBytes bs s = .next s :=
  decBytes_other bs (by simp [hs]) (by simp [hs])

theorem exec_decEos_of_idle {s : State} (hs : s.dec.phase = .idle) : exec .decEos s = .next s := by
  rw [exec_decEos, execDecEos, hs, noStep]

/-- Settles O7: the operations with a port check their condition first, and in `D_IDLE` no byte is taken. -/
theorem disabledOperationChangesNothing : Obligations.DisabledOperationChangesNothing := by
  intro i s hen
  have hne : ¬enabled i s = true := by simp [hen]
  cases i with
  | encStart m w h => exact if_neg hne
  | encHdr => exact if_neg hne
  | encPix r g b => exact if_neg hne
  | decStart => exact if_neg hne
  | decByte b => exact decByteStep_of_idle b (by simpa [enabled] using hen)
  | decEos => exact exec_decEos_of_idle (by simpa [enabled] using hen)
  | fmtHeader m w h => exact decBytes_of_idle _ (by simpa [enabled] using hen)
  | fmtTriplet y j q => exact decBytes_of_idle _ (by simpa [enabled] using hen)
  | rgb2yiq | yiq2rgb | reset => cases hen

/-- Settles O5: `fetched` is the choice the statement writes out. -/
theorem stepRunsDecodedOperation : Obligations.StepRunsDecodedOperation := by
  intro s t f w i ht hp hd
  rw [step, ht]
  dsimp only
  rw [hp]
  dsimp only
  rw [hd]
  rfl

/-- Settles O6: the item is left, and the operation changes nothing. -/
theorem disabledItemStaysWithHost : Obligations.DisabledItemStaysWithHost := by
  intro s t f w i ht hp hd hen
  rw [stepRunsDecodedOperation s t f w i ht hp hd, hen, if_neg Bool.false_ne_true,
    disabledOperationChangesNothing i _ hen, popTurn]

/-- Settles O10: the values of R241, read off `State.reset`. -/
theorem powerOnState : Obligations.PowerOnState := by
  unfold Obligations.PowerOnState
  decide

/-- Settles O12: both units are idle and `d_err` is 0. -/
theorem invariantAtReset : Obligations.InvariantAtReset := by
  unfold Obligations.InvariantAtReset
  decide

/-- Settles O15: each output is the test of its phases, and R36 (vii) ties `d_err` to `D_ERR`. -/
theorem statusOutputsFollowPhases : Obligations.StatusOutputsFollowPhases := by
  intro s
  refine ⟨by simp [eBusy], by simp [eDone], by simp [dBusy], by simp [dHdrOk], by simp [dDone], by simp [dFail], ?_⟩
  rintro ⟨-, -, -, -, herr, -⟩
  rw [dErr, ← herr, dFail, decide_eq_true_iff]

end Sys2Proof.Machine

/-! What an operation reads and writes (10_state.md R35, 44_pipeline.md R195): an operation of ENC is a function of the
registers of ENC that writes them and appends to `E_OUT`, and one of DEC likewise with `D_PIX`. The statements about
what an operation leaves alone, and about operations in two orders, follow from this. -/

namespace Sys2Proof.Machine

@[simp] theorem State.emitPixels_nil (s : State) : s.emitPixels [] = s := by
  simp [State.emitPixels]

theorem State.emitPixels_setDec_emitPixels_setDec (s : State) (ps qs : List Rgb) (d d' : Dec) :
    (((s.emitPixels ps).setDec d).emitPixels qs).setDec d' = (s.emitPixels (ps ++ qs)).setDec d' := by
  simp [State.emitPixels, State.setDec]

/-- On every state with the registers `e` in ENC, `f` emits `bs` and leaves ENC at `e'`. -/
def EncActs (f : State → Outcome) (e : Enc) (bs : List Byte) (e' : Enc) : Prop :=
  ∀ s : State, s.enc = e → f s = .next ((s.emitBytes bs).setEnc e')

/-- On every state with the registers `d` in DEC, `f` emits `ps` and leaves DEC at `d'`. -/
def DecActs (f : State → Outcome) (d : Dec) (ps : List Rgb) (d' : Dec) : Prop :=
  ∀ s : State, s.dec = d → f s = .next ((s.emitPixels ps).setDec d')

theorem encActs_of_noStep {f : State → Outcome} {e : Enc} (h : ∀ s : State, s.enc = e → f s = .next s) :
    EncActs f e [] e := by
  intro s hs
  rw [h s hs, State.emitBytes_nil, ← hs, State.setEnc_self]

theorem decActs_of_noStep {f : State → Outcome} {d : Dec} (h : ∀ s : State, s.dec = d → f s = .next s) :
    DecActs f d [] d := by
  intro s hs
  rw [h s hs, State.emitPixels_nil, ← hs, State.setDec_self]

/-- Only registers written, nothing emitted. -/
theorem decActs_of_setDec {f : State → Outcome} {d d' : Dec} (h : ∀ s : State, s.dec = d → f s = .next (s.setDec d')) :
    DecActs f d [] d' := by
  intro s hs
  rw [h s hs, State.emitPixels_nil]

/-- How many bytes an operation puts on `E_OUT` (42_serializer.md R149). -/
def emittedCount (i : Instr) (e : Enc) : Nat :=
  match i with
  | .encHdr => if e.phase = .hdr then 1 else 0
  | .encPix .. => if e.phase = .data then 3 else 0
  | _ => 0

theorem encActs_encStart (m : Method) (w h : U32) (e : Enc) : ∃ e', EncActs (exec (.encStart m w h)) e [] e' := by
  by_cases he : e.phase = .idle ∨ e.phase = .done
  · refine ⟨Enc.started m w h, fun s hs => ?_⟩
    rw [exec_encStart_of_closed m w h (by rwa [hs]), State.emitBytes_nil]
  · refine ⟨e, encActs_of_noStep fun s hs => disabledOperationChangesNothing _ s ?_⟩
    rwa [← Bool.not_eq_true, enabled_encStart_iff, hs]

/-- Where ENC.HDR answers a next state, it emits a byte in `E_HDR` and does nothing elsewhere. -/
theorem encActs_encHdr {s t : State} (h : exec .encHdr s = .next t) :
    ∃ bs e', bs.length = emittedCount .encHdr s.enc ∧ EncActs (exec .encHdr) s.enc bs e' := by
  by_cases hs : s.enc.phase = .hdr
  · cases hb : headerByte s.enc.method s.enc.width s.enc.height s.enc.off.toNat with
    | none =>
      rw [exec_encHdr, execEncHdr, if_pos ((enabled_encHdr_iff s).mpr hs), hb] at h
      cases h
    | some b =>
      refine ⟨[b], s.enc.afterHeaderByte, (if_pos hs).symm, fun u hu => ?_⟩
      rw [← hu] at hs hb ⊢
      exact exec_encHdr_of_headerByte hs hb
  · refine ⟨[], s.enc, (if_neg hs).symm, encActs_of_noStep fun u hu => disabledOperationChangesNothing _ u ?_⟩
    rwa [← Bool.not_eq_true, enabled_encHdr_iff, hu]

theorem encActs_encPix (r g b : Byte) (e : Enc) :
    ∃ bs e', bs.length = emittedCount (.encPix r g b) e ∧ EncActs (exec (.encPix r g b)) e bs e' := by
  by_cases he : e.phase = .data
  · refine ⟨tripletBytes (rgb2yiq (Config.coeff e.method).mat ⟨r, g, b⟩), e.afterPixel, (if_pos he).symm,
      fun s hs => ?_⟩
    rw [← hs] at he ⊢
    exact exec_encPix_of_data r g b he
  · refine ⟨[], e, (if_neg he).symm, encActs_of_noStep fun s hs => disabledOperationChangesNothing _ s ?_⟩
    rwa [← Bool.not_eq_true, enabled_encPix_iff, hs]

theorem encActs_of_exec {i : Instr} {s t : State} (hi : ofEnc i = true) (h : exec i s = .next t) :
    ∃ bs e', bs.length = emittedCount i s.enc ∧ EncActs (exec i) s.enc bs e' := by
  cases i with
  | encStart m w h' =>
    obtain ⟨e', hact⟩ := encActs_encStart m w h' s.enc
    exact ⟨[], e', rfl, hact⟩
  | encHdr => exact encActs_encHdr h
  | encPix r g b => exact encActs_encPix r g b s.enc
  | _ => cases hi

theorem decActs_decHeaderByte {b : Byte} {s t : State} (h : decHeaderByte b s = .next t) :
    ∃ d', DecActs (decHeaderByte b) s.dec [] d' := by
  cases hcase : headerCase b s.dec with
  | none =>
    rw [decHeaderByte, hcase] at h
    cases h
  | some r =>
    cases r with
    | ok d => exact ⟨d.afterHeaderByte, decActs_of_setDec fun u hu => by rw [decHeaderByte, hu, hcase]⟩
    | error k =>
      exact ⟨s.dec.raise k, decActs_of_setDec fun u hu => by rw [decHeaderByte, hu, hcase]; simp [State.raise, hu]⟩

theorem decActs_decDataByte (b : Byte) (d : Dec) : ∃ ps d', DecActs (decDataByte b) d ps d' := by
  cases hl : d.lane with
  | y =>
    refine ⟨[], { d with y := b, lane := .i }, decActs_of_setDec fun s hs => ?_⟩
    rw [decDataByte_of_lane_y b (by rwa [hs]), hs]
  | i =>
    refine ⟨[], { d with i := b, lane := .q }, decActs_of_setDec fun s hs => ?_⟩
    rw [decDataByte_of_lane_i b (by rwa [hs]), hs]
  | q =>
    refine ⟨[yiq2rgb (Config.coeff d.method).mat ⟨d.y, d.i, b⟩], d.afterTriplet, fun s hs => ?_⟩
    rw [decDataByte_of_lane_q b (by rwa [hs]), hs]
    rfl

theorem decActs_decByteStep {b : Byte} {s t : State} (h : decByteStep b s = .next t) :
    ∃ ps d', DecActs (decByteStep b) s.dec ps d' := by
  obtain ⟨hs, hb⟩ | ⟨hs, -⟩ | ⟨hhdr, hdata, -⟩ := decByteStep_cases b s
  · obtain ⟨d', hact⟩ := decActs_decHeaderByte (hb.symm.trans h)
    exact ⟨[], d', fun u hu => (decByteStep_hdr b u (by rwa [hu])).trans (hact u hu)⟩
  · obtain ⟨ps, d', hact⟩ := decActs_decDataByte b s.dec
    exact ⟨ps, d', fun u hu => (decByteStep_data b u (by rwa [hu])).trans (hact u hu)⟩
  · exact ⟨[], s.dec, decActs_of_noStep fun u hu => decByteStep_other b u (by rwa [hu]) (by rwa [hu])⟩

/-- DEC.BYTES acts as its bytes do, one after the other. -/
theorem decActs_decBytes {bs : List Byte} {s t : State} (h : decBytes bs s = .next t) :
    ∃ ps d', DecActs (decBytes bs) s.dec ps d' := by
  induction bs generalizing s with
  | nil => exact ⟨[], s.dec, decActs_of_noStep fun u _ => rfl⟩
  | cons b bs ih =>
    rw [decBytes] at h
    split at h
    · next u hu =>
      obtain ⟨ps, d, hbyte⟩ := decActs_decByteStep hu
      obtain ⟨qs, d', hrest⟩ := ih h
      refine ⟨ps ++ qs, d', fun v hv => ?_⟩
      have hudec : u.dec = d := by rw [eq_of_exec (i := .decByte b) hu (hbyte s rfl), State.setDec_dec]
      rw [decBytes_cons_next (hbyte v hv), hrest _ hudec.symm, State.emitPixels_setDec_emitPixels_setDec]
    · cases h
    · cases h

theorem decActs_decStart (d : Dec) : ∃ d', DecActs (exec .decStart) d [] d' := by
  by_cases hd : d.phase = .idle ∨ d.phase = .done ∨ d.phase = .err
  · refine ⟨d.start, decActs_of_setDec fun s hs => ?_⟩
    rw [exec_decStart_of_closed (by rwa [hs]), hs]
  · refine ⟨d, decActs_of_noStep fun s hs => disabledOperationChangesNothing _ s ?_⟩
    rwa [← Bool.not_eq_true, enabled_decStart_iff, hs]

theorem decActs_decEos (d : Dec) : ∃ d', DecActs (exec .decEos) d [] d' := by
  cases hd : d.phase with
  | hdr =>
    refine ⟨d.raise (if d.off.toNat < 3 then .invalidFormat else .truncatedData), decActs_of_setDec fun s hs => ?_⟩
    rw [exec_decEos_of_hdr (by rwa [hs]), State.raise, hs]
  | data =>
    refine ⟨d.raise .truncatedData, decActs_of_setDec fun s hs => ?_⟩
    rw [exec_decEos_of_data (by rwa [hs]), State.raise, hs]
  | idle => exact ⟨d, decActs_of_noStep fun s hs => exec_decEos_of_idle (by rwa [hs])⟩
  | done => exact ⟨d, decActs_of_noStep fun s hs => exec_decEos_of_done (by rwa [hs])⟩
  | err => exact ⟨d, decActs_of_noStep fun s hs => exec_decEos_of_err (by rwa [hs])⟩

theorem decActs_of_exec {i : Instr} {s t : State} (hi : ofDec i = true) (h : exec i s = .next t) :
    ∃ ps d', DecActs (exec i) s.dec ps d' := by
  cases i with
  | decStart => exact ⟨[], decActs_decStart s.dec⟩
  | decEos => exact ⟨[], decActs_decEos s.dec⟩
  | decByte b => exact decActs_decByteStep h
  | fmtHeader m w h' => exact decActs_decBytes h
  | fmtTriplet y j q => exact decActs_decBytes h
  | _ => cases hi

/-- An operation of ENC writes the registers of ENC and `E_OUT`. -/
theorem eq_of_exec_ofEnc {i : Instr} {s t : State} (hi : ofEnc i = true) (h : exec i s = .next t) :
    ∃ bs e, bs.length = emittedCount i s.enc ∧ t = (s.emitBytes bs).setEnc e := by
  obtain ⟨bs, e, hlen, hact⟩ := encActs_of_exec hi h
  exact ⟨bs, e, hlen, eq_of_exec h (hact s rfl)⟩

/-- An operation of DEC writes the registers of DEC and `D_PIX`. -/
theorem eq_of_exec_ofDec {i : Instr} {s t : State} (hi : ofDec i = true) (h : exec i s = .next t) :
    ∃ ps d, t = (s.emitPixels ps).setDec d := by
  obtain ⟨ps, d, hact⟩ := decActs_of_exec hi h
  exact ⟨ps, d, eq_of_exec h (hact s rfl)⟩

/-- Settles O17: what a unit's operation writes is not the other unit's. -/
theorem unitsShareNothing : Obligations.UnitsShareNothing := by
  refine fun i s t h => ⟨fun hi => ?_, fun hi => ?_⟩
  · obtain ⟨bs, e, -, rfl⟩ := eq_of_exec_ofEnc hi h
    exact ⟨rfl, rfl, rfl, rfl, rfl⟩
  · obtain ⟨ps, d, rfl⟩ := eq_of_exec_ofDec hi h
    exact ⟨rfl, rfl, rfl, rfl, rfl⟩

/-- Settles O23: an operation of ENC emits its count, and every other leaves `E_OUT` as it is. -/
theorem onlyHdrAndPixEmitBytes : Obligations.OnlyHdrAndPixEmitBytes := by
  intro i s t h
  cases i with
  | encStart | encHdr | encPix =>
    obtain ⟨bs, e, hlen, rfl⟩ := eq_of_exec_ofEnc rfl h
    exact ⟨bs, rfl, hlen⟩
  | decStart | decByte | decEos | fmtHeader | fmtTriplet =>
    obtain ⟨ps, d, rfl⟩ := eq_of_exec_ofDec rfl h
    exact ⟨[], (List.append_nil _).symm, rfl⟩
  | rgb2yiq | yiq2rgb | reset =>
    cases h
    exact ⟨[], (List.append_nil _).symm, rfl⟩

end Sys2Proof.Machine

/-! The invariants of R36: every operation has a next state where they hold and keeps them; a step is an operation, or
changes the waiting items only, or refuses an item. -/

namespace Sys2Proof.Machine

theorem encInv_of_idle {e : Enc} (hs : e.phase = .idle) : EncInv e := by
  simp [EncInv, hs]

theorem encInv_of_hdr {e : Enc} (hs : e.phase = .hdr) (hoff : e.off.toNat ≤ 16)
    (hrem : e.rem.toNat = e.width.toNat * e.height.toNat) : EncInv e := by
  simp [EncInv, hs, hoff, hrem]

/-- Behind the header the phase follows the count, and so does what R36 asks. -/
theorem encInv_of_awaiting {e : Enc} (hs : e.phase = .awaiting e.rem)
    (hrem : e.rem.toNat ≤ e.width.toNat * e.height.toNat) : EncInv e := by
  rcases Nat.eq_zero_or_pos e.rem.toNat with hzero | hpos
  · rw [EPhase.awaiting_of_zero hzero] at hs
    simp [EncInv, hs, hzero]
  · rw [EPhase.awaiting_of_pos hpos] at hs
    simp [EncInv, hs, hrem, Nat.one_le_iff_ne_zero, hpos.ne']

theorem encInv_afterHeaderByte {e : Enc} (hs : e.phase = .hdr) (hinv : EncInv e) : EncInv e.afterHeaderByte := by
  obtain ⟨hhdr, -, -⟩ := hinv
  obtain ⟨hoff, hrem⟩ := hhdr hs
  rcases hoff.lt_or_eq with hlt | hlast
  · rw [Enc.afterHeaderByte_of_lt hlt]
    exact encInv_of_hdr hs (by rw [toNat_add_one_of_lt hlt]; exact hlt) hrem
  · rw [Enc.afterHeaderByte_of_le hlast.ge]
    exact encInv_of_awaiting rfl hrem.le

theorem encInv_afterPixel {e : Enc} (hs : e.phase = .data) (hinv : EncInv e) : EncInv e.afterPixel := by
  obtain ⟨-, hdata, -⟩ := hinv
  obtain ⟨hpos, hrem⟩ := hdata hs
  rw [Enc.afterPixel, hs]
  refine encInv_of_awaiting rfl ?_
  rw [toNat_sub_one_of_pos hpos]
  exact (Nat.sub_le _ _).trans hrem

theorem exec_ofEnc_keeps_encInv {i : Instr} {s : State} (hi : ofEnc i = true) (hinv : EncInv s.enc) :
    ∃ t, exec i s = .next t ∧ EncInv t.enc := by
  by_cases hen : enabled i s = true
  · cases i with
    | encStart m w h =>
      exact ⟨_, exec_encStart_of_closed m w h ((enabled_encStart_iff m w h s).mp hen),
        encInv_of_hdr rfl (by simp [Enc.started]) (pixelCount_toNat w h)⟩
    | encHdr =>
      have hs := (enabled_encHdr_iff s).mp hen
      obtain ⟨hhdr, -, -⟩ := id hinv
      obtain ⟨b, hb⟩ := headerByte_some s.enc.method s.enc.width s.enc.height _ (hhdr hs).1
      exact ⟨_, exec_encHdr_of_headerByte hs hb, encInv_afterHeaderByte hs hinv⟩
    | encPix r g b =>
      have hs := (enabled_encPix_iff r g b s).mp hen
      exact ⟨_, exec_encPix_of_data r g b hs, encInv_afterPixel hs hinv⟩
    | _ => cases hi
  · exact ⟨s, disabledOperationChangesNothing i s (Bool.eq_false_iff.mpr hen), hinv⟩

theorem decInv_of_idle {d : Dec} (hs : d.phase = .idle) (herr : d.err = 0#3) : DecInv d := by
  simp [DecInv, hs, herr]

theorem decInv_of_hdr {d : Dec} (hs : d.phase = .hdr) (hoff : d.off.toNat ≤ 16) (herr : d.err = 0#3) : DecInv d := by
  simp [DecInv, hs, hoff, herr]

theorem decInv_of_data {d : Dec} (hs : d.phase = .data) (hpos : 1 ≤ d.rem.toNat)
    (hrem : d.rem.toNat ≤ d.width.toNat * d.height.toNat) (herr : d.err = 0#3) : DecInv d := by
  simp [DecInv, hs, herr, hrem, Nat.one_le_iff_ne_zero, Nat.one_le_iff_ne_zero.mp hpos]

theorem decInv_of_awaiting {d : Dec} (hs : d.phase = .awaiting d.rem)
    (hrem : d.rem.toNat ≤ d.width.toNat * d.height.toNat) (herr : d.err = 0#3) : DecInv d := by
  rcases Nat.eq_zero_or_pos d.rem.toNat with hzero | hpos
  · rw [DPhase.awaiting, if_pos (BitVec.eq_of_toNat_eq hzero)] at hs
    simp [DecInv, hs, herr, hzero]
  · rw [DPhase.awaiting, if_neg (by rintro hrem; simp [hrem] at hpos)] at hs
    exact decInv_of_data hs hpos hrem herr

/-- The error kinds CORE raises (60_exceptions.md R211) have the codes 2 to 5. -/
theorem decInv_raise (d : Dec) {k : ErrKind}
    (hk : errCode k = 2#3 ∨ errCode k = 3#3 ∨ errCode k = 4#3 ∨ errCode k = 5#3) : DecInv (d.raise k) := by
  simp [DecInv, hk]

theorem errCode_headerErr (k : Nat) :
    errCode (headerErr k) = if k = 3 then 3#3 else if k = 4 then 4#3 else 2#3 := by
  unfold headerErr
  split_ifs <;> rfl

theorem errCode_headerErr_mem (k : Nat) :
    errCode (headerErr k) = 2#3 ∨ errCode (headerErr k) = 3#3 ∨ errCode (headerErr k) = 4#3 ∨
      errCode (headerErr k) = 5#3 := by
  rw [errCode_headerErr]
  split_ifs <;> simp

theorem decHeaderByte_keeps_decInv (b : Byte) {s : State} (hs : s.dec.phase = .hdr) (hinv : DecInv s.dec) :
    ∃ t, exec (.decByte b) s = .next t ∧ DecInv t.dec := by
  obtain ⟨hhdr, -⟩ := hinv
  obtain ⟨hoff, herr⟩ := hhdr hs
  by_cases hb : headerByteGood s.dec.off.toNat b = true
  · rcases hoff.lt_or_eq with hlt | hlast
    · obtain ⟨m, w, h, hnext⟩ := exec_decByte_of_good_lt hs hlt hb
      exact ⟨_, hnext, decInv_of_hdr hs (by simpa [toNat_add_one_of_lt hlt] using hlt) herr⟩
    · exact ⟨_, exec_decByte_of_good_last hs hlast hb, decInv_of_awaiting rfl (pixelCount_toNat _ _).le herr⟩
  · exact ⟨_, exec_decByte_of_bad hs hoff (Bool.eq_false_iff.mpr hb), decInv_raise _ (errCode_headerErr_mem _)⟩

theorem decDataByte_keeps_decInv (b : Byte) {s : State} (hs : s.dec.phase = .data) (hinv : DecInv s.dec) :
    ∃ t, decDataByte b s = .next t ∧ DecInv t.dec := by
  obtain ⟨-, hdata, -⟩ := hinv
  obtain ⟨hpos, hrem, herr⟩ := hdata hs
  cases hl : s.dec.lane with
  | y => exact ⟨_, decDataByte_of_lane_y b hl, decInv_of_data hs hpos hrem herr⟩
  | i => exact ⟨_, decDataByte_of_lane_i b hl, decInv_of_data hs hpos hrem herr⟩
  | q =>
    refine ⟨_, decDataByte_of_lane_q b hl, ?_⟩
    rw [State.setDec_dec, Dec.afterTriplet_of_data hs]
    refine decInv_of_awaiting rfl ?_ herr
    rw [toNat_sub_one_of_pos hpos]
    exact (Nat.sub_le _ _).trans hrem

theorem decByteStep_keeps_decInv (b : Byte) {s : State} (hinv : DecInv s.dec) :
    ∃ t, decByteStep b s = .next t ∧ DecInv t.dec := by
  obtain ⟨hs, -⟩ | ⟨hs, hb⟩ | ⟨-, -, hb⟩ := decByteStep_cases b s
  · exact decHeaderByte_keeps_decInv b hs hinv
  · rw [hb]
    exact decDataByte_keeps_decInv b hs hinv
  · exact ⟨s, hb, hinv⟩

theorem decBytes_keeps_decInv (bs : List Byte) {s : State} (hinv : DecInv s.dec) :
    ∃ t, decBytes bs s = .next t ∧ DecInv t.dec := by
  induction bs generalizing s with
  | nil => exact ⟨s, rfl, hinv⟩
  | cons b bs ih =>
    obtain ⟨u, hu, huinv⟩ := decByteStep_keeps_decInv b hinv
    rw [decBytes_cons_next hu]
    exact ih huinv

theorem decEos_keeps_decInv {s : State} (hinv : DecInv s.dec) : ∃ t, exec .decEos s = .next t ∧ DecInv t.dec := by
  cases hs : s.dec.phase with
  | hdr =>
    refine ⟨_, exec_decEos_of_hdr hs, decInv_raise _ ?_⟩
    split_ifs <;> simp [errCode]
  | data => exact ⟨_, exec_decEos_of_data hs, decInv_raise _ (by simp [errCode])⟩
  | idle => exact ⟨s, exec_decEos_of_idle hs, hinv⟩
  | done => exact ⟨s, exec_decEos_of_done hs, hinv⟩
  | err => exact ⟨s, exec_decEos_of_err hs, hinv⟩

theorem decStart_keeps_decInv {s : State} (hinv : DecInv s.dec) :
    ∃ t, exec .decStart s = .next t ∧ DecInv t.dec := by
  by_cases hen : enabled .decStart s = true
  · exact ⟨_, exec_decStart_of_closed ((enabled_decStart_iff s).mp hen), decInv_of_hdr rfl (by simp) rfl⟩
  · exact ⟨s, disabledOperationChangesNothing _ s (Bool.eq_false_iff.mpr hen), hinv⟩

theorem exec_ofDec_keeps_decInv {i : Instr} {s : State} (hi : ofDec i = true) (hinv : DecInv s.dec) :
    ∃ t, exec i s = .next t ∧ DecInv t.dec := by
  cases i with
  | decStart => exact decStart_keeps_decInv hinv
  | decByte b => exact decByteStep_keeps_decInv b hinv
  | decEos => exact decEos_keeps_decInv hinv
  | fmtHeader m w h => exact decBytes_keeps_decInv _ hinv
  | fmtTriplet y j q => exact decBytes_keeps_decInv _ hinv
  | _ => cases hi

theorem exec_ofEnc_keeps_inv {i : Instr} {s : State} (hi : ofEnc i = true) (hinv : Inv s) :
    ∃ t, exec i s = .next t ∧ Inv t := by
  obtain ⟨henc, hdec⟩ := hinv
  obtain ⟨t, ht, htenc⟩ := exec_ofEnc_keeps_encInv hi henc
  obtain ⟨hframe, -⟩ := (unitsShareNothing i s t ht).1 hi
  exact ⟨t, ht, htenc, by rwa [hframe]⟩

theorem exec_ofDec_keeps_inv {i : Instr} {s : State} (hi : ofDec i = true) (hinv : Inv s) :
    ∃ t, exec i s = .next t ∧ Inv t := by
  obtain ⟨henc, hdec⟩ := hinv
  obtain ⟨t, ht, htdec⟩ := exec_ofDec_keeps_decInv hi hdec
  obtain ⟨hframe, -⟩ := (unitsShareNothing i s t ht).2 hi
  exact ⟨t, ht, by rwa [hframe], htdec⟩

/-- Where the invariants hold, every operation has a next state, and they hold there. -/
theorem exec_keeps_inv (i : Instr) {s : State} (hinv : Inv s) : ∃ t, exec i s = .next t ∧ Inv t := by
  cases i with
  | encStart | encHdr | encPix => exact exec_ofEnc_keeps_inv rfl hinv
  | decStart | decByte | decEos | fmtHeader | fmtTriplet => exact exec_ofDec_keeps_inv rfl hinv
  | rgb2yiq | yiq2rgb => exact ⟨_, rfl, hinv⟩
  | reset => exact ⟨_, exec_reset s, encInv_of_idle rfl, decInv_of_idle rfl rfl⟩

/-- Write the items waiting on the ports. -/
def State.setInp (s : State) (p : Inputs) : State := { s with inp := p }

@[simp] theorem State.setInp_enc (s : State) (p : Inputs) : (s.setInp p).enc = s.enc := rfl
@[simp] theorem State.setInp_dec (s : State) (p : Inputs) : (s.setInp p).dec = s.dec := rfl
@[simp] theorem State.setInp_inp (s : State) (p : Inputs) : (s.setInp p).inp = p := rfl
@[simp] theorem State.setInp_setInp (s : State) (p q : Inputs) : (s.setInp p).setInp q = s.setInp q := rfl
@[simp] theorem State.setInp_self (s : State) : s.setInp s.inp = s := rfl

theorem popTurn_eq_setInp (s : State) : popTurn s = s.setInp { s.inp with turns := s.inp.turns.tail } := rfl

theorem take_eq_setInp (t : Turn) (s : State) : take t s = s.setInp (take t s).inp := by
  cases t <;> rfl

theorem fetched_eq_setInp (t : Turn) (i : Instr) (s : State) : ∃ p, fetched t i s = s.setInp p := by
  rw [fetched]
  split_ifs
  · exact ⟨_, take_eq_setInp t s⟩
  · exact ⟨_, s.setInp_self.symm⟩

/-- What a step can be: items moved at most, an item refused, or an operation with items moved. -/
theorem step_cases (s : State) :
    (∃ p, step s = .next (s.setInp p)) ∨ (∃ r, step s = .refused r) ∨ ∃ i p, step s = exec i (s.setInp p) := by
  cases ht : nextTurn s with
  | none => exact .inl ⟨s.inp, by rw [step, ht]; rfl⟩
  | some t =>
    cases hp : peek t (popTurn s) with
    | none => exact .inl ⟨_, by rw [step, ht]; dsimp only; rw [hp]; rfl⟩
    | some item =>
      cases hd : decode item.1 item.2 with
      | ok i =>
        obtain ⟨p, hfetched⟩ := fetched_eq_setInp t i (popTurn s)
        exact .inr (.inr ⟨i, p, (stepRunsDecodedOperation s t _ _ i ht hp hd).trans (congrArg (exec i) hfetched)⟩)
      | error e => exact .inr (.inl ⟨_, by rw [step, ht]; dsimp only; rw [hp]; dsimp only; rw [hd]⟩)

/-- Settles O13: an operation keeps the invariants, and they do not speak of the waiting items. -/
theorem stepKeepsInvariant : Obligations.StepKeepsInvariant := by
  intro s t hinv ht
  obtain ⟨p, hstep⟩ | ⟨r, hstep⟩ | ⟨i, p, hstep⟩ := step_cases s
  · cases hstep.symm.trans ht
    exact hinv
  · cases hstep.symm.trans ht
  · obtain ⟨u, hu, huinv⟩ := exec_keeps_inv i (s := s.setInp p) hinv
    cases hu.symm.trans (hstep.symm.trans ht)
    exact huinv

/-- Settles O14: an operation has a next state, and a step without one does not fault. -/
theorem invariantStatesNeverFault : Obligations.InvariantStatesNeverFault := by
  intro s r hinv hfault
  obtain ⟨p, hstep⟩ | ⟨q, hstep⟩ | ⟨i, p, hstep⟩ := step_cases s
  · cases hstep.symm.trans hfault
  · cases hstep.symm.trans hfault
  · obtain ⟨u, hu, -⟩ := exec_keeps_inv i (s := s.setInp p) hinv
    cases hu.symm.trans (hstep.symm.trans hfault)

/-- Settles O18: each operation acts alike whatever the other has written, and the two writings commute. -/
theorem unitsCommute : Obligations.UnitsCommute := by
  intro i j s hinv hi hj
  obtain ⟨t, ht, -⟩ := exec_keeps_inv i hinv
  obtain ⟨u, hu, -⟩ := exec_keeps_inv j hinv
  obtain ⟨bs, e, -, henc⟩ := encActs_of_exec hi ht
  obtain ⟨ps, d, hdec⟩ := decActs_of_exec hj hu
  calc execList [i, j] s
    _ = .next ((((s.emitBytes bs).setEnc e).emitPixels ps).setDec d) := by
      rw [execList_cons_next (henc s rfl), execList_cons_next (hdec ((s.emitBytes bs).setEnc e) rfl), execList_nil]
    _ = .next ((((s.emitPixels ps).setDec d).emitBytes bs).setEnc e) := rfl
    _ = execList [j, i] s := by
      rw [execList_cons_next (hdec s rfl), execList_cons_next (henc ((s.emitPixels ps).setDec d) rfl), execList_nil]

end Sys2Proof.Machine

/-! From sequences of operations to steps (20_memory.md R66, R68): where the items of some operations are next on the
ports and each operation is enabled when its turn comes, as many steps perform them. Then ENC.IMAGE as operations, as an
offered image, and its header without named turns. -/

namespace Sys2Proof.Machine

/-- An operation acts alike whatever waits on the ports. -/
theorem exec_setInp {i : Instr} {s t : State} (h : exec i s = .next t) (p : Inputs) :
    exec i (s.setInp p) = .next (t.setInp p) := by
  cases i with
  | encStart | encHdr | encPix =>
    obtain ⟨bs, e, -, hact⟩ := encActs_of_exec rfl h
    rw [eq_of_exec h (hact s rfl)]
    exact hact (s.setInp p) rfl
  | decStart | decByte | decEos | fmtHeader | fmtTriplet =>
    obtain ⟨ps, d, hact⟩ := decActs_of_exec rfl h
    rw [eq_of_exec h (hact s rfl)]
    exact hact (s.setInp p) rfl
  | rgb2yiq | yiq2rgb | reset =>
    cases h
    rfl

theorem execList_cons_eq_next {i : Instr} {is : List Instr} {s u : State} (h : execList (i :: is) s = .next u) :
    ∃ t, exec i s = .next t ∧ execList is t = .next u := by
  rw [execList] at h
  split at h
  · next t ht => exact ⟨t, ht, h⟩
  · cases h
  · cases h

/-- Each of the operations, performed in order from `s`, is enabled when it is its turn. -/
def EnabledAlong : List Instr → State → Prop
  | [], _ => True
  | i :: is, s => enabled i s = true ∧ ∀ t, exec i s = .next t → EnabledAlong is t

theorem enabledAlong_append {is js : List Instr} {s : State} (his : EnabledAlong is s)
    (hjs : ∀ t, execList is s = .next t → EnabledAlong js t) : EnabledAlong (is ++ js) s := by
  induction is generalizing s with
  | nil => exact hjs s rfl
  | cons i is ih =>
    obtain ⟨hi, his⟩ := his
    exact ⟨hi, fun t ht => ih (his t ht) fun u hu => hjs u ((execList_cons_next ht).trans hu)⟩

/-- The items of the operations are next on the ports of `s`, in the order of its turns, and `p` is what stands behind
them. -/
def Offered : List Instr → State → Inputs → Prop
  | [], s, p => s.inp = p
  | i :: is, s, p =>
    ∃ t ts, s.inp.turns = t :: ts ∧ peek t (popTurn s) = some (i.format, encode i) ∧ Offered is (take t (popTurn s)) p

theorem peek_popTurn_congr (t : Turn) {s s' : State} (h : s.inp = s'.inp) :
    peek t (popTurn s) = peek t (popTurn s') := by
  rw [← s'.setInp_self, ← h]
  cases t <;> rfl

theorem take_popTurn_congr (t : Turn) {s s' : State} (h : s.inp = s'.inp) :
    (take t (popTurn s)).inp = (take t (popTurn s')).inp := by
  rw [← s'.setInp_self, ← h]
  cases t <;> rfl

theorem Offered.congr {is : List Instr} {s s' : State} {p : Inputs} (hs : Offered is s p) (h : s.inp = s'.inp) :
    Offered is s' p := by
  induction is generalizing s s' with
  | nil => exact h.symm.trans hs
  | cons i is ih =>
    obtain ⟨t, ts, hturns, hpeek, hrest⟩ := hs
    exact ⟨t, ts, h ▸ hturns, (peek_popTurn_congr t h).symm.trans hpeek, ih hrest (take_popTurn_congr t h)⟩

theorem step_of_peek {i : Instr} {s : State} {t : Turn} {ts : List Turn} (hturns : s.inp.turns = t :: ts)
    (hpeek : peek t (popTurn s) = some (i.format, encode i)) (hen : enabled i s = true) :
    step s = exec i (s.setInp (take t (popTurn s)).inp) := by
  have hnext : nextTurn s = some t := by rw [nextTurn, hturns]
  have hpop : enabled i (popTurn s) = true := by rw [← hen]; cases i <;> rfl
  rw [stepRunsDecodedOperation s t _ _ i hnext hpeek (decodeEncodeRoundTrip i (by cases i <;> rfl)), if_pos hpop,
    take_eq_setInp]
  rfl

/-- Offered operations, each enabled in its turn, are performed one per step. -/
theorem steps_of_offered {is : List Instr} {s u : State} {p q : Inputs} (hoff : Offered is (s.setInp p) q)
    (hen : EnabledAlong is s) (hrun : execList is s = .next u) :
    steps is.length (s.setInp p) = .next (u.setInp q) := by
  induction is generalizing s p with
  | nil =>
    cases hrun
    cases hoff
    rfl
  | cons i is ih =>
    obtain ⟨t, ts, hturns, hpeek, hrest⟩ := hoff
    obtain ⟨hi, hen⟩ := hen
    obtain ⟨v, hv, hrun⟩ := execList_cons_eq_next hrun
    have hstep := step_of_peek hturns hpeek (by rw [← hi]; cases i <;> rfl)
    rw [State.setInp_setInp, exec_setInp hv] at hstep
    rw [List.length_cons, steps_succ_next hstep]
    exact ih (hrest.congr rfl) (hen v hv) hrun

/-- Settles O24: ENC.IMAGE emits the container, and only ENC and `E_OUT` change. -/
theorem encAgreesWithSerialize : Obligations.EncAgreesWithSerialize := by
  intro m w h px s hpx hs
  refine ⟨_, execList_encImage hpx hs, rfl, rfl, ?_, rfl, rfl, rfl⟩
  exact congrArg some List.drop_left

theorem enabledAlong_replicate_encHdr {n : Nat} {s : State} (hs : s.enc.phase = .hdr) (hn : s.enc.off.toNat + n = 16) :
    EnabledAlong (List.replicate (n + 1) .encHdr) s := by
  induction n generalizing s with
  | zero => exact ⟨(enabled_encHdr_iff s).mpr hs, fun _ _ => trivial⟩
  | succ n ih =>
    refine ⟨(enabled_encHdr_iff s).mpr hs, fun t ht => ?_⟩
    have hlt : s.enc.off.toNat < 16 := by omega
    have henc := enc_of_encHdr hs hlt.le ht
    rw [Enc.afterHeaderByte_of_lt hlt] at henc
    refine ih (by rwa [henc]) ?_
    rw [off_of_encHdr hs hlt ht]
    omega

theorem enabledAlong_map_encPix {px : List Rgb} {s : State} (hs : s.enc.phase = .awaiting s.enc.rem)
    (hn : s.enc.rem.toNat = px.length) : EnabledAlong (px.map fun p => .encPix p.r p.g p.b) s := by
  induction px generalizing s with
  | nil => trivial
  | cons p px ih =>
    rw [List.length_cons] at hn
    have hpos : 1 ≤ s.enc.rem.toNat := by omega
    have hdata : s.enc.phase = .data := by rw [hs, EPhase.awaiting_of_pos hpos]
    refine ⟨(enabled_encPix_iff _ _ _ s).mpr hdata, fun t ht => ih ?_ ?_⟩
    · rw [enc_of_encPix hdata ht]
    · rw [rem_of_encPix hdata hpos ht, hn, Nat.add_sub_cancel]

theorem enabledAlong_encImage {m : Method} {w h : U32} {px : List Rgb} {s : State}
    (hpx : px.length = w.toNat * h.toNat) (hs : s.enc.phase = .idle ∨ s.enc.phase = .done) :
    EnabledAlong (encImage m w h px) s := by
  rw [encImage, ← List.cons_append]
  refine enabledAlong_append ⟨(enabled_encStart_iff m w h s).mpr hs, fun t ht => ?_⟩ fun t ht => ?_
  · rw [eq_of_exec ht (exec_encStart_of_closed m w h hs)]
    exact enabledAlong_replicate_encHdr rfl rfl
  · rw [execList_encStart_header m w h hs] at ht
    cases ht
    exact enabledAlong_map_encPix rfl (by rw [hpx]; exact pixelCount_toNat w h)

theorem offered_encStart {m : Method} {w h : U32} {is : List Instr} {s : State} {q : Inputs}
    {cmds : List (BitVec 65)} {ts : List Turn} (hcmd : s.inp.eCmd = (m.bit ++ w ++ h) :: cmds)
    (hturns : s.inp.turns = .eCmd :: ts) (his : Offered is (s.setInp { s.inp with eCmd := cmds, turns := ts }) q) :
    Offered (.encStart m w h :: is) s q := by
  refine ⟨.eCmd, ts, hturns, ?_, his.congr ?_⟩
  · simp [peek, popTurn, hcmd, Instr.format, encode]
  · simp [take, popTurn, hcmd, hturns]

theorem offered_replicate_encHdr {n : Nat} {is : List Instr} {s : State} {q : Inputs} {ts : List Turn}
    (hturns : s.inp.turns = List.replicate n .eHdr ++ ts) (his : Offered is (s.setInp { s.inp with turns := ts }) q) :
    Offered (List.replicate n .encHdr ++ is) s q := by
  induction n generalizing s with
  | zero =>
    rw [List.replicate_zero, List.nil_append] at hturns
    subst hturns
    exact his
  | succ n ih =>
    refine ⟨.eHdr, List.replicate n .eHdr ++ ts, by rw [hturns]; rfl, rfl, ih ?_ (his.congr ?_)⟩
    · simp [take, popTurn, hturns, List.replicate_succ]
    · simp [take, popTurn]

theorem offered_map_encPix {px : List Rgb} {s : State} {pix : List (BitVec 24)} {ts : List Turn}
    (hpix : s.inp.ePix = px.map pixItem ++ pix) (hturns : s.inp.turns = List.replicate px.length .ePix ++ ts) :
    Offered (px.map fun p => .encPix p.r p.g p.b) s { s.inp with ePix := pix, turns := ts } := by
  induction px generalizing s with
  | nil =>
    rw [List.map_nil, List.nil_append] at hpix
    rw [List.length_nil, List.replicate_zero, List.nil_append] at hturns
    subst hpix hturns
    rfl
  | cons p px ih =>
    refine ⟨.ePix, List.replicate px.length .ePix ++ ts, by rw [hturns]; rfl, ?_, ?_⟩
    · simp [peek, popTurn, hpix, Instr.format, encode, pixItem]
    · have hrest := ih (s := take .ePix (popTurn s)) (by simp [take, popTurn, hpix])
        (by simp [take, popTurn, hturns, List.replicate_succ])
      exact hrest

theorem length_encImage (m : Method) (w h : U32) (px : List Rgb) : (encImage m w h px).length = 18 + px.length := by
  simp [encImage]
  omega

/-- Settles O25: the offered items are those of ENC.IMAGE, each enabled in its turn. -/
theorem stepsEncodeOfferedImage : Obligations.StepsEncodeOfferedImage := by
  intro m w h px s cmds pix ts hpx hs hcmd hpix hturns
  obtain ⟨t, ht, -, -, hres, hdec, -, -⟩ := encAgreesWithSerialize m w h px s hpx hs
  have hoff : Offered (encImage m w h px) (s.setInp s.inp) { s.inp with eCmd := cmds, ePix := pix, turns := ts } :=
    offered_encStart hcmd hturns <| offered_replicate_encHdr (List.append_assoc _ _ _) <| offered_map_encPix hpix rfl
  have hsteps := steps_of_offered hoff (enabledAlong_encImage hpx hs) ht
  rw [length_encImage] at hsteps
  exact ⟨_, hsteps, hres, hdec, rfl⟩

/-! ENC.HDR without a named turn (20_memory.md R68). -/

theorem ready_eCmd_of_hdr {s : State} (hs : s.enc.phase = .hdr) : ready .eCmd s = false := by
  rw [ready, peek]
  cases s.inp.eCmd.head? with
  | none => rfl
  | some w =>
    dsimp only [Option.map_some]
    rw [decode_eCmd_toNat]
    simp [decodeECmd, enabled, hs]

/-- With no turn named and no RESET waiting, it is ENC.HDR's turn in an open header. -/
theorem step_encHdr_of_no_turns {s : State} (hturns : s.inp.turns = []) (hrst : s.inp.rst = 0)
    (hs : s.enc.phase = .hdr) : step s = exec .encHdr s := by
  have hen := (enabled_encHdr_iff s).mpr hs
  have hpop : popTurn s = s := by rw [popTurn_eq_setInp, hturns, List.tail_nil, ← hturns]; rfl
  have hfirst : ready .rst s = false := by rw [ready, peek, if_pos hrst]
  have hready : ready .eHdr s = true := hen
  have hnext : nextTurn s = some .eHdr := by
    rw [nextTurn, hturns]
    simp [defaultOrder, hfirst, ready_eCmd_of_hdr hs, hready]
  rw [stepRunsDecodedOperation s .eHdr .auto 0 .encHdr hnext rfl rfl, hpop, if_pos hen, take]

theorem steps_encHdr_of_no_turns {n : Nat} {s : State} (hturns : s.inp.turns = []) (hrst : s.inp.rst = 0)
    (hen : EnabledAlong (List.replicate n .encHdr) s) : steps n s = execList (List.replicate n .encHdr) s := by
  induction n generalizing s with
  | zero => rfl
  | succ n ih =>
    obtain ⟨hi, hen⟩ := hen
    rw [steps, List.replicate_succ, execList,
      step_encHdr_of_no_turns hturns hrst ((enabled_encHdr_iff s).mp hi)]
    cases ht : exec .encHdr s with
    | next t =>
      obtain ⟨-, -, hinp, -⟩ := (unitsShareNothing _ s t ht).1 rfl
      exact ih (hinp ▸ hturns) (hinp ▸ hrst) (hen t ht)
    | fault r => rfl
    | refused r => rfl

/-- Settles O9: each of the 17 steps is ENC.HDR, and the 17 emit the header from offset 0. -/
theorem headerProgressesByItself : Obligations.HeaderProgressesByItself := by
  intro s hturns hrst hs hoff
  have hn : s.enc.off.toNat + 16 = 16 := by rw [hoff]; rfl
  have hrest : s.enc.headerRest = headerBytes s.enc.method s.enc.width s.enc.height := by
    rw [Enc.headerRest, hoff]
    rfl
  have hsteps := steps_encHdr_of_no_turns hturns hrst (enabledAlong_replicate_encHdr hs hn)
  rw [execList_replicate_encHdr hs hn, hrest] at hsteps
  refine ⟨_, hsteps, rfl, ?_, rfl, rfl, rfl, rfl⟩
  have hzero : s.enc.rem = 0#64 ↔ s.enc.rem.toNat = 0 := by rw [← BitVec.toNat_inj]; rfl
  simp only [State.setEnc_enc, EPhase.awaiting, hzero]

end Sys2Proof.Machine

/-! DEC.STREAM of any byte sequence (43_deserializer.md R178): it ends in `D_DONE` behind a container, and in `D_ERR` at
the first offence in the header or at the end of a data section cut short. -/

namespace Sys2Proof.Machine

theorem execList_singleton (i : Instr) (s : State) : execList [i] s = exec i s := by
  rw [execList]
  cases exec i s <;> rfl

/-- DEC.STREAM is its bytes from a started transaction, and the end mark. -/
theorem execList_decStream {bs : List Byte} {s t : State}
    (hs : s.dec.phase = .idle ∨ s.dec.phase = .done ∨ s.dec.phase = .err)
    (hbytes : decBytes bs (s.setDec s.dec.start) = .next t) : execList (decStream bs) s = exec .decEos t := by
  rw [← execList_map_decByte] at hbytes
  rw [decStream, execList_cons_next (exec_decStart_of_closed hs), execList_append hbytes, execList_singleton]

/-- Bytes behind a container are drained (R167, R175). -/
theorem execList_decStream_of_ok {bs : List Byte} {x : YiqImage} {s : State} (h : deserialize bs = .ok x)
    (hs : s.dec.phase = .idle ∨ s.dec.phase = .done ∨ s.dec.phase = .err) :
    ∃ y i, execList (decStream bs) s =
      .next ((s.emitPixels (x.data.map (yiq2rgb (Config.coeff x.method).mat))).setDec
        { s.dec.start.headerDone x.method x.width x.height with y := y, i := i, rem := 0#64, phase := .done }) := by
  obtain ⟨hx, extra, rfl⟩ := (deserialize_eq_ok_iff bs x).mp h
  obtain ⟨y, i, hcontainer⟩ := decBytes_serialize hx (s := s.setDec s.dec.start) rfl rfl
  have hextra := decBytes_other extra (s := (s.emitPixels (x.data.map (yiq2rgb (Config.coeff x.method).mat))).setDec
    { s.dec.start.headerDone x.method x.width x.height with y := y, i := i, rem := 0#64, phase := .done })
    nofun nofun
  refine ⟨y, i, ?_⟩
  rw [execList_decStream hs (decBytes_append_next hcontainer hextra)]
  exact exec_decEos_of_done rfl

/-! A header with an offence in it. -/

theorem LegalBefore.of_succ {bs : List Byte} {k : Nat} (h : LegalBefore bs (k + 1)) : LegalBefore bs k :=
  fun j hj => h j (hj.trans k.lt_succ_self)

/-- The legal bytes before offset `k` bring DEC to offset `k` of the header. -/
theorem decBytes_take_of_legalBefore {bs : List Byte} {k : Nat} (hk : k ≤ 16) (hbs : LegalBefore bs k) {s : State}
    (hs : s.dec.phase = .hdr) (hoff : s.dec.off = 0#5) :
    ∃ d, decBytes (bs.take k) s = .next (s.setDec d) ∧ d.phase = .hdr ∧ d.off.toNat = k := by
  induction k with
  | zero => exact ⟨s.dec, rfl, hs, by rw [hoff]; rfl⟩
  | succ k ih =>
    obtain ⟨d, htake, hd, hdoff⟩ := ih (by omega) hbs.of_succ
    obtain ⟨b, hb, hgood⟩ := hbs k k.lt_succ_self
    have hlt : d.off.toNat < 16 := by omega
    obtain ⟨m, w, h, hnext⟩ := exec_decByte_of_good_lt (s := s.setDec d) (b := b) hd hlt (by rwa [← hdoff] at hgood)
    refine ⟨{ d with method := m, width := w, height := h, off := d.off + 1#5 }, ?_, hd,
      (toNat_add_one_of_lt hlt).trans (congrArg (· + 1) hdoff)⟩
    rw [List.take_add_one, hb]
    exact decBytes_append_next htake ((decBytes_cons_next hnext).trans (decBytes_nil _))

/-- The first offence raises its error, by the illegal byte or by the end mark, and what follows is drained. -/
theorem execList_decStream_of_offence {bs : List Byte} {k : Nat} (hk : k ≤ 16) (hbs : LegalBefore bs k)
    (hbad : OffenceAt bs k) {s : State} (hs : s.dec.phase = .idle ∨ s.dec.phase = .done ∨ s.dec.phase = .err) :
    ∃ d : Dec, execList (decStream bs) s = .next (s.setDec (d.raise (offenceErr k bs[k]?))) := by
  obtain ⟨d, htake, hd, hdoff⟩ := decBytes_take_of_legalBefore hk hbs (s := s.setDec s.dec.start) rfl rfl
  refine ⟨d, ?_⟩
  cases hb : bs[k]? with
  | none =>
    rw [List.take_of_length_le (List.getElem?_eq_none_iff.mp hb)] at htake
    rw [execList_decStream hs htake, exec_decEos_of_hdr hd, State.setDec_setDec, State.setDec_dec, hdoff]
    rfl
  | some b =>
    have hsplit : bs = bs.take k ++ b :: bs.drop (k + 1) := by
      obtain ⟨hlt, rfl⟩ := List.getElem?_eq_some_iff.mp hb
      rw [← List.drop_eq_getElem_cons hlt, List.take_append_drop]
    have hbyte : decByteStep b (s.setDec d) = .next (s.setDec (d.raise (headerErr k))) := by
      rw [← hdoff] at hbad hb hk ⊢
      exact exec_decByte_of_bad hd hk (hbad b hb)
    have hrest := decBytes_other (bs.drop (k + 1)) (s := s.setDec (d.raise (headerErr k))) nofun nofun
    rw [hsplit, execList_decStream hs (decBytes_append_next htake ((decBytes_cons_next hbyte).trans hrest))]
    exact exec_decEos_of_err rfl

theorem legalBefore_or_offence (bs : List Byte) (n : Nat) :
    LegalBefore bs n ∨ ∃ k < n, LegalBefore bs k ∧ OffenceAt bs k := by
  induction n with
  | zero => exact .inl nofun
  | succ n ih =>
    rcases ih with hlegal | ⟨k, hk, hoffence⟩
    · by_cases hbad : OffenceAt bs n
      · exact .inr ⟨n, n.lt_succ_self, hlegal, hbad⟩
      · simp only [OffenceAt, not_forall, Bool.not_eq_false] at hbad
        obtain ⟨b, hb, hgood⟩ := hbad
        refine .inl fun j hj => ?_
        rcases (Nat.lt_succ_iff.mp hj).lt_or_eq with hlt | rfl
        · exact hlegal j hlt
        · exact ⟨b, hb, hgood⟩
    · exact .inr ⟨k, hk.trans n.lt_succ_self, hoffence⟩

/-- A rejected header has a first offence, and its error is the one of that offence. -/
theorem exists_offence_of_headerOf_error {bs : List Byte} {e : ErrKind} (h : headerOf bs = .error e) :
    ∃ k ≤ 16, LegalBefore bs k ∧ OffenceAt bs k ∧ e = offenceErr k bs[k]? := by
  obtain hlegal | ⟨k, hk, hlegal, hbad⟩ := legalBefore_or_offence bs 17
  · obtain ⟨m, hok⟩ := headerOf_of_legalBefore hlegal
    cases h.symm.trans hok
  · have hk : k ≤ 16 := Nat.le_of_lt_succ hk
    cases h.symm.trans (headerOf_error_of_offence hlegal hbad hk)
    exact ⟨k, hk, hlegal, hbad, rfl⟩

/-! A data section cut short. -/

/-- Up to two bytes of a triplet are latched (R174). -/
theorem decBytes_of_partial_triplet {bs : List Byte} {s : State} (hs : s.dec.phase = .data) (hlane : s.dec.lane = .y)
    (hlen : bs.length < 3) : ∃ d, decBytes bs s = .next (s.setDec d) ∧ d.phase = .data := by
  match bs with
  | [] => exact ⟨s.dec, rfl, hs⟩
  | [y] =>
    refine ⟨{ s.dec with y := y, lane := .i }, ?_, hs⟩
    rw [decBytes_cons_next ((decByteStep_data y s hs).trans (decDataByte_of_lane_y y hlane)), decBytes_nil]
  | [y, i] =>
    refine ⟨{ s.dec with y := y, i := i, lane := .q }, ?_, hs⟩
    have hi := (decByteStep_data i (s.setDec { s.dec with y := y, lane := .i }) hs).trans (decDataByte_of_lane_i i rfl)
    rw [decBytes_cons_next ((decByteStep_data y s hs).trans (decDataByte_of_lane_y y hlane)), decBytes_cons_next hi]
    rfl
  | _ :: _ :: _ :: _ => simp only [List.length_cons] at hlen; omega

/-- Fewer bytes than `d_rem` triplets: the complete ones are converted, and DEC stays in `D_DATA`. -/
theorem decBytes_of_short_data {bs : List Byte} {s : State} (hs : s.dec.phase = .data) (hlane : s.dec.lane = .y)
    (hlen : bs.length < 3 * s.dec.rem.toNat) :
    ∃ d, decBytes bs s =
      .next ((s.emitPixels ((triplets bs).map (yiq2rgb (Config.coeff s.dec.method).mat))).setDec d) ∧
      d.phase = .data := by
  induction bs using triplets.induct generalizing s with
  | case1 y i q rest ih =>
    rw [List.length_cons, List.length_cons, List.length_cons] at hlen
    have hpred := toNat_sub_one_of_pos (n := s.dec.rem) (by omega)
    have hmore : DPhase.awaiting (s.dec.rem - 1#64) = .data := by
      rw [DPhase.awaiting_pred, if_neg (by omega)]
    have htriplet := decBytes_tripletBytes ⟨y, i, q⟩ hs hlane
    rw [hmore] at htriplet
    obtain ⟨d, hrest, hd⟩ := ih (s := (s.emitPixel (yiq2rgb (Config.coeff s.dec.method).mat ⟨y, i, q⟩)).setDec
      { s.dec with y := y, i := i, rem := s.dec.rem - 1#64, phase := .data }) rfl hlane
      (by rw [State.setDec_dec, hpred]; omega)
    refine ⟨d, ?_, hd⟩
    rw [show y :: i :: q :: rest = tripletBytes ⟨y, i, q⟩ ++ rest from rfl, decBytes_append htriplet, hrest]
    simp [triplets, tripletBytes, State.emitPixels, State.emitPixel, State.setDec]
  | case2 bs hbs =>
    match bs with
    | [] | [_] | [_, _] =>
      simp only [triplets, List.map_nil, State.emitPixels_nil]
      exact decBytes_of_partial_triplet hs hlane (by simp)
    | y :: i :: q :: rest => exact (hbs y i q rest rfl).elim

/-- The pixels of the complete triplets present behind a valid header (R178). -/
def presentPixels (bs : List Byte) : List Rgb :=
  match headerOf bs with
  | .ok (m, _, _) => (triplets (bs.drop 17)).map (yiq2rgb (Config.coeff m).mat)
  | .error _ => []

theorem execList_decStream_of_short_data {bs : List Byte} {m : Method} {w h : U32} {s : State}
    (hhdr : headerOf bs = .ok (m, w, h)) (hlen : bs.length < 17 + 3 * (w.toNat * h.toNat))
    (hs : s.dec.phase = .idle ∨ s.dec.phase = .done ∨ s.dec.phase = .err) :
    ∃ d : Dec, execList (decStream bs) s =
      .next ((s.emitPixels (presentPixels bs)).setDec (d.raise .truncatedData)) := by
  have hpx : presentPixels bs = (triplets (bs.drop 17)).map (yiq2rgb (Config.coeff m).mat) := by
    rw [presentPixels, hhdr]
  obtain ⟨rest, rfl⟩ := (headerOf_eq_ok_iff bs m w h).mp hhdr
  have hrest : rest.length < 3 * (pixelCount w h).toNat := by
    rw [List.length_append, headerBytes_length] at hlen
    rw [pixelCount_toNat]
    omega
  have hdata : DPhase.awaiting (pixelCount w h) = .data := by
    rw [DPhase.awaiting_pixelCount, ← pixelCount_toNat, if_pos (by omega)]
  obtain ⟨d, hbytes, hd⟩ := decBytes_of_short_data (s := s.setDec (s.dec.start.headerDone m w h)) hdata rfl hrest
  refine ⟨d, ?_⟩
  rw [execList_decStream hs (decBytes_append_next (decBytes_headerBytes m w h rfl rfl) hbytes),
    exec_decEos_of_data hd, hpx]
  rfl

/-- A stream that `deserialize` rejects ends in `D_ERR` with its error, the complete triplets converted. -/
theorem execList_decStream_of_error {bs : List Byte} {k : ErrKind} {s : State} (h : deserialize bs = .error k)
    (hs : s.dec.phase = .idle ∨ s.dec.phase = .done ∨ s.dec.phase = .err) :
    ∃ d : Dec, execList (decStream bs) s = .next ((s.emitPixels (presentPixels bs)).setDec (d.raise k)) := by
  cases hhdr : headerOf bs with
  | error e =>
    obtain ⟨n, hn, hlegal, hbad, rfl⟩ := exists_offence_of_headerOf_error hhdr
    cases h.symm.trans (deserialize_of_headerOf_error hhdr)
    rw [presentPixels, hhdr, State.emitPixels_nil]
    exact execList_decStream_of_offence hn hlegal hbad hs
  | ok header =>
    obtain ⟨m, w, h'⟩ := header
    rw [deserialize_of_headerOf_ok hhdr, dataAt] at h
    split_ifs at h with hlen
    · cases h
      exact execList_decStream_of_short_data hhdr hlen hs
    · cases h

/-- Settles O40: the two outcomes of `deserialize`. -/
theorem decAgreesWithDeserialize : Obligations.DecAgreesWithDeserialize := by
  intro bs s hs
  cases h : deserialize bs with
  | ok x =>
    obtain ⟨y, i, hrun⟩ := execList_decStream_of_ok h hs
    refine ⟨_, hrun, rfl, rfl, rfl, ?_, nofun⟩
    rintro _ ⟨⟩
    exact ⟨rfl, rfl, rfl, rfl, rfl, rfl, rfl⟩
  | error k =>
    obtain ⟨d, hrun⟩ := execList_decStream_of_error h hs
    refine ⟨_, hrun, rfl, rfl, rfl, nofun, ?_⟩
    rintro _ ⟨⟩
    exact ⟨rfl, rfl, rfl, rfl⟩

/-! The same stream offered on the ports. -/

theorem decTarget_decByte_ne_idle (b : Byte) {d : Dec} (hd : d.phase ≠ .idle) : decTarget (.decByte b) d ≠ .idle := by
  cases hphase : d.phase with
  | idle => exact absurd hphase hd
  | hdr | data =>
    simp only [decTarget, hphase]
    split_ifs <;> nofun
  | done | err =>
    simp only [decTarget, hphase]
    nofun

theorem enabledAlong_bytes_eos {bs : List Byte} {s : State} (hinv : DecInv s.dec) (hs : s.dec.phase ≠ .idle) :
    EnabledAlong (bs.map .decByte ++ [.decEos]) s := by
  induction bs generalizing s with
  | nil => exact ⟨(enabled_decEos_iff s).mpr hs, fun _ _ => trivial⟩
  | cons b bs ih =>
    refine ⟨(enabled_decByte_iff b s).mpr hs, fun t ht => ?_⟩
    obtain ⟨u, hu, huinv⟩ := decByteStep_keeps_decInv b hinv
    obtain rfl := eq_of_exec (i := .decByte b) ht hu
    refine ih huinv ?_
    rw [decPhase_of_decByte (fun hhdr => (hinv.1 hhdr).1) ht]
    exact decTarget_decByte_ne_idle b hs

theorem enabledAlong_decStream (bs : List Byte) {s : State}
    (hs : s.dec.phase = .idle ∨ s.dec.phase = .done ∨ s.dec.phase = .err) : EnabledAlong (decStream bs) s := by
  refine ⟨(enabled_decStart_iff s).mpr hs, fun t ht => ?_⟩
  rw [eq_of_exec ht (exec_decStart_of_closed hs)]
  exact enabledAlong_bytes_eos (decInv_of_hdr rfl (by simp) rfl) nofun

theorem offered_decStart {is : List Instr} {s : State} {q : Inputs} {ts : List Turn} (hcmd : 1 ≤ s.inp.dCmd)
    (hturns : s.inp.turns = .dCmd :: ts)
    (his : Offered is (s.setInp { s.inp with dCmd := s.inp.dCmd - 1, turns := ts }) q) :
    Offered (.decStart :: is) s q := by
  refine ⟨.dCmd, ts, hturns, if_neg (Nat.one_le_iff_ne_zero.mp hcmd), his.congr ?_⟩
  simp [take, popTurn, hturns]

theorem offered_bytes_eos {bs : List Byte} {s : State} {rest : List (BitVec 9)} {ts : List Turn}
    (hin : s.inp.dIn = bs.map byteItem ++ 0x100#9 :: rest)
    (hturns : s.inp.turns = List.replicate (bs.length + 1) .dIn ++ ts) :
    Offered (bs.map .decByte ++ [.decEos]) s { s.inp with dIn := rest, turns := ts } := by
  induction bs generalizing s with
  | nil =>
    refine ⟨.dIn, ts, hturns, ?_, ?_⟩
    · simp [peek, popTurn, hin, Instr.format, encode]
    · simp [Offered, take, popTurn, hin, hturns]
  | cons b bs ih =>
    refine ⟨.dIn, List.replicate (bs.length + 1) .dIn ++ ts, by rw [hturns]; rfl, ?_, ?_⟩
    · simp [peek, popTurn, hin, Instr.format, encode, byteItem]
    · exact ih (s := take .dIn (popTurn s)) (by simp [take, popTurn, hin])
        (by simp [take, popTurn, hturns, List.replicate_succ])

theorem length_decStream (bs : List Byte) : (decStream bs).length = bs.length + 2 := by
  simp [decStream]

/-- What DEC commits is the result of `decode_stream`. -/
theorem decResult_of_decStream {bs : List Byte} {s t : State}
    (hs : s.dec.phase = .idle ∨ s.dec.phase = .done ∨ s.dec.phase = .err)
    (ht : execList (decStream bs) s = .next t) : decResult s t = some (decodeStream coeffTable bs) := by
  cases h : deserialize bs with
  | ok x =>
    obtain ⟨y, i, hrun⟩ := execList_decStream_of_ok h hs
    cases ht.symm.trans hrun
    rw [decodeStream, h]
    exact congrArg (fun ps => some (Except.ok (DecodedImage.mk x.method x.width x.height ps))) List.drop_left
  | error k =>
    obtain ⟨d, hrun⟩ := execList_decStream_of_error h hs
    cases ht.symm.trans hrun
    rw [decodeStream, h]
    exact congrArg (Option.map Except.error) (errKind_errCode k)

/-- Settles O41: the offered items are those of DEC.STREAM, each enabled in its turn. -/
theorem stepsCommitDecodeStream : Obligations.StepsCommitDecodeStream := by
  intro bs s rest ts hs hcmd hin hturns
  obtain ⟨t, ht, henc, -⟩ := decAgreesWithDeserialize bs s hs
  have hoff : Offered (decStream bs) (s.setInp s.inp)
      { s.inp with dCmd := s.inp.dCmd - 1, dIn := rest, turns := ts } :=
    offered_decStart hcmd hturns (offered_bytes_eos hin rfl)
  have hsteps := steps_of_offered hoff (enabledAlong_decStream bs hs) ht
  rw [length_decStream] at hsteps
  have hres := decResult_of_decStream hs ht
  exact ⟨_, hsteps, hres, henc, rfl⟩

end Sys2Proof.Machine

/-! The operations of unit DEC on one item: the header's bytes by offset (43_deserializer.md R173), drained bytes
(R175), the errors (60_exceptions.md R211, R214, R216), and the two format rows (30_encoding.md R77, R83). -/

namespace Sys2Proof.Machine

/-- Settles O34: the code of the error raised is the one of the offset. -/
theorem decByteRejectsBadHeaderByte : Obligations.DecByteRejectsBadHeaderByte := by
  intro b s hs hoff hbad
  rw [exec_decByte_of_bad hs hoff hbad, ← errCode_headerErr]
  rfl

theorem headerCase_of_width (b : Byte) {d : Dec} {j : Fin 4} (hk : d.off.toNat = 5 + j) :
    headerCase b d = some (.ok { d with width := setLeByte d.width j b }) := by
  rw [headerCase, hk]
  fin_cases j <;> rfl

theorem headerCase_of_height (b : Byte) {d : Dec} {j : Fin 4} (hk : d.off.toNat = 9 + j) :
    headerCase b d = some (.ok { d with height := setLeByte d.height j b }) := by
  rw [headerCase, hk]
  fin_cases j <;> rfl

theorem headerConstant_of_mid {k : Nat} (h4 : 4 ≤ k) (h12 : k ≤ 12) : headerConstant k = none := by
  interval_cases k <;> rfl

theorem methodOfBit_extract_zero (b : Byte) :
    methodOfBit (b.extractLsb' 0 1) = if b.getLsbD 0 then .smptec else .ntsc1953 := by
  have hbit : b.extractLsb' 0 1 = .ofBool (b.getLsbD 0) := by
    ext n hn
    obtain rfl := Nat.lt_one_iff.mp hn
    simp
  rw [hbit]
  cases b.getLsbD 0 <;> rfl

/-- What a legal byte before the last writes in the header's fields, by the kind of its offset. -/
theorem headerCase_fields {b : Byte} {d : Dec} (hk : d.off.toNat < 16)
    (hb : headerByteGood d.off.toNat b = true) :
    ∃ m w h, headerCase b d = some (.ok { d with method := m, width := w, height := h }) ∧
      m = (if d.off.toNat = 4 then (if b.getLsbD 0 then .smptec else .ntsc1953) else d.method) ∧
      (∀ n < 32, w.getLsbD n =
        if 5 ≤ d.off.toNat ∧ d.off.toNat ≤ 8 ∧ n / 8 = d.off.toNat - 5 then b.getLsbD (n % 8) else d.width.getLsbD n) ∧
      (∀ n < 32, h.getLsbD n =
        if 9 ≤ d.off.toNat ∧ d.off.toNat ≤ 12 ∧ n / 8 = d.off.toNat - 9 then b.getLsbD (n % 8)
        else d.height.getLsbD n) := by
  obtain ⟨c, hc⟩ | h4 | ⟨h5, h12⟩ := headerConstant_or_method_or_dims hk.le
  · have hout : ¬(4 ≤ d.off.toNat ∧ d.off.toNat ≤ 12) := by
      rintro ⟨h4, h12⟩
      cases hc.symm.trans (headerConstant_of_mid h4 h12)
    rw [headerByteGood_iff_of_constant hc] at hb
    refine ⟨d.method, d.width, d.height, ?_, (if_neg (by omega)).symm, fun n _ => (if_neg (by omega)).symm,
      fun n _ => (if_neg (by omega)).symm⟩
    rw [headerCase_of_constant b hk.le hc, expectByte, if_pos hb]
  · have hle := (headerByteGood_four_iff b).mp (h4 ▸ hb)
    refine ⟨methodOfBit (b.extractLsb' 0 1), d.width, d.height, ?_, ?_, fun n _ => (if_neg (by omega)).symm,
      fun n _ => (if_neg (by omega)).symm⟩
    · rw [headerCase_of_method b h4, if_neg hle.not_gt]
    · rw [if_pos h4, methodOfBit_extract_zero]
  · rcases Nat.lt_or_ge d.off.toNat 9 with h9 | h9
    · obtain ⟨j, hj⟩ : ∃ j : Fin 4, d.off.toNat = 5 + j := ⟨⟨d.off.toNat - 5, by omega⟩, by simp; omega⟩
      refine ⟨d.method, _, d.height, headerCase_of_width b hj, (if_neg (by omega)).symm, fun n hn => ?_,
        fun n _ => (if_neg (by omega)).symm⟩
      rw [getLsbD_setLeByte _ _ _ hn]
      exact if_congr (by omega) rfl rfl
    · obtain ⟨j, hj⟩ : ∃ j : Fin 4, d.off.toNat = 9 + j := ⟨⟨d.off.toNat - 9, by omega⟩, by simp; omega⟩
      refine ⟨d.method, d.width, _, headerCase_of_height b hj, (if_neg (by omega)).symm,
        fun n _ => (if_neg (by omega)).symm, fun n hn => ?_⟩
      rw [getLsbD_setLeByte _ _ _ hn]
      exact if_congr (by omega) rfl rfl

/-- Settles O35: the fields are written by the kind of the offset, and the offset advances. -/
theorem decByteAcceptsHeaderByte : Obligations.DecByteAcceptsHeaderByte := by
  intro b s hs hlt hgood
  obtain ⟨m, w, h, hcase, hfields⟩ := headerCase_fields hlt hgood
  refine ⟨m, w, h, ?_, hfields⟩
  rw [exec_decByte_of_headerCase_ok hs hcase, Dec.afterHeaderByte_of_lt]
  · rfl
  · exact hlt

theorem DPhase.awaiting_pixelCount_eq (w h : U32) :
    DPhase.awaiting (pixelCount w h) = if w.toNat * h.toNat = 0 then .done else .data := by
  simp only [DPhase.awaiting, pixelCount_eq_zero]

/-- Settles O36: the last byte is the sentinel's `A`, and it leaves the registers of a header read. -/
theorem decByteCompletesHeader : Obligations.DecByteCompletesHeader := by
  intro s hs hoff
  refine ⟨pixelCount s.dec.width s.dec.height, pixelCount_toNat _ _, ?_⟩
  have hoff' : s.dec.off = 16#5 := BitVec.eq_of_toNat_eq hoff
  rw [exec_decByte_of_good_last hs hoff (by rw [hoff]; rfl), ← DPhase.awaiting_pixelCount_eq, Dec.headerDone, ← hoff']
  rfl

/-- Settles O38: a byte is taken where DEC.BYTE is enabled, and outside an open transaction it does nothing. -/
theorem drainedBytesChangeNothing : Obligations.DrainedBytesChangeNothing := by
  intro b s rest ts hturns hin
  have hpeek : peek .dIn (popTurn s) = some (.dIn, encode (.decByte b)) := by
    simp [peek, popTurn, hin, encode, byteItem]
  refine ⟨fun hs => ?_, fun hs => ?_⟩
  · have hen : enabled (.decByte b) s = true := by
      rw [enabled_decByte_iff]
      rcases hs with hs | hs <;> simp [hs]
    have hinp : (take .dIn (popTurn s)).inp = { s.inp with dIn := rest, turns := ts } := by
      simp [take, popTurn, hin, hturns]
    rw [step_of_peek (i := .decByte b) hturns hpeek hen, hinp]
    rcases hs with hs | hs <;> exact decByteStep_other b _ (by simp [hs]) (by simp [hs])
  · have hnext : nextTurn s = some .dIn := by rw [nextTurn, hturns]
    have hen : enabled (.decByte b) (popTurn s) = false := by
      rw [← Bool.not_eq_true, enabled_decByte_iff, not_not]
      exact hs
    rw [disabledItemStaysWithHost s .dIn .dIn _ (.decByte b) hnext hpeek
      (decodeEncodeRoundTrip (.decByte b) rfl) hen, hturns]
    rfl

theorem headerCase_of_gt (b : Byte) {d : Dec} (hk : 16 < d.off.toNat) : headerCase b d = none := by
  obtain ⟨n, hn⟩ := Nat.exists_eq_add_of_lt hk
  rw [headerCase, hn, show 16 + n + 1 = n + 17 by omega]
  rfl

/-- Where DEC.BYTE answers a next state in `D_HDR`, the offset is one of the header's. -/
theorem off_le_of_decByte {b : Byte} {s t : State} (hs : s.dec.phase = .hdr) (h : exec (.decByte b) s = .next t) :
    s.dec.off.toNat ≤ 16 := by
  by_contra! hgt
  rw [exec_decByte, decByteStep_hdr b s hs, decHeaderByte, headerCase_of_gt b hgt] at h
  cases h

/-- DEC.BYTE enters `D_ERR` only by an illegal header byte. -/
theorem eq_raise_of_decByte {b : Byte} {s t : State} (h : exec (.decByte b) s = .next t) (hs : s.dec.phase ≠ .err)
    (ht : t.dec.phase = .err) : s.dec.phase = .hdr ∧ t = s.raise (headerErr s.dec.off.toNat) := by
  have htarget := (decPhase_of_decByte (fun hhdr => off_le_of_decByte hhdr h) h).symm.trans ht
  cases hphase : s.dec.phase with
  | hdr =>
    have hoff := off_le_of_decByte hphase h
    by_cases hgood : headerByteGood s.dec.off.toNat b = true
    · simp only [decTarget, hphase, if_pos hgood] at htarget
      split_ifs at htarget
    · exact ⟨rfl, eq_of_exec h (exec_decByte_of_bad hphase hoff (Bool.eq_false_iff.mpr hgood))⟩
  | data =>
    simp only [decTarget, hphase] at htarget
    split_ifs at htarget
  | idle | done =>
    simp only [decTarget, hphase] at htarget
    cases htarget
  | err => exact absurd hphase hs

/-- DEC.EOS enters `D_ERR` from an open transaction. -/
theorem eq_raise_of_decEos {s t : State} (h : exec .decEos s = .next t) (hs : s.dec.phase ≠ .err)
    (ht : t.dec.phase = .err) :
    (s.dec.phase = .hdr ∨ s.dec.phase = .data) ∧ (t = s.raise .invalidFormat ∨ t = s.raise .truncatedData) := by
  cases hphase : s.dec.phase with
  | hdr =>
    refine ⟨.inl rfl, ?_⟩
    rw [eq_of_exec h (exec_decEos_of_hdr hphase)]
    split_ifs
    · exact .inl rfl
    · exact .inr rfl
  | data => exact ⟨.inr rfl, .inr (eq_of_exec h (exec_decEos_of_data hphase))⟩
  | idle =>
    rw [eq_of_exec h (exec_decEos_of_idle hphase)] at ht
    exact absurd ht hs
  | done =>
    rw [eq_of_exec h (exec_decEos_of_done hphase)] at ht
    exact absurd ht hs
  | err => exact absurd hphase hs

/-- An error entry writes `d_err` and `d_phase` (R214). -/
theorem raise_of_code {s t : State} {k : ErrKind} (ht : t = s.raise k)
    (hk : errCode k = 2#3 ∨ errCode k = 3#3 ∨ errCode k = 4#3 ∨ errCode k = 5#3) :
    (t.dec.err = 2#3 ∨ t.dec.err = 3#3 ∨ t.dec.err = 4#3 ∨ t.dec.err = 5#3) ∧
      t = { s with dec := { s.dec with err := t.dec.err, phase := .err } } := by
  subst ht
  exact ⟨hk, rfl⟩

/-- Settles O43: only DEC.BYTE and DEC.EOS change to `D_ERR`, and each by an error entry. -/
theorem onlyByteAndEosRaise : Obligations.OnlyByteAndEosRaise := by
  intro i s t hheader htriplet h hs ht
  cases i with
  | decByte b =>
    obtain ⟨hhdr, hraise⟩ := eq_raise_of_decByte h hs ht
    exact ⟨.inl ⟨⟨b, rfl⟩, hhdr⟩, raise_of_code hraise (errCode_headerErr_mem _)⟩
  | decEos =>
    obtain ⟨hopen, hraise | hraise⟩ := eq_raise_of_decEos h hs ht
    · exact ⟨.inr ⟨rfl, hopen⟩, raise_of_code hraise (by decide)⟩
    · exact ⟨.inr ⟨rfl, hopen⟩, raise_of_code hraise (by decide)⟩
  | decStart =>
    by_cases hen : enabled .decStart s = true
    · rw [dec_of_decStart hen h] at ht
      cases ht
    · cases h.symm.trans (disabledOperationChangesNothing _ s (Bool.eq_false_iff.mpr hen))
      exact absurd ht hs
  | encStart | encHdr | encPix =>
    rw [dec_of_exec_ofEnc rfl h] at ht
    exact absurd ht hs
  | rgb2yiq | yiq2rgb =>
    cases h
    exact absurd ht hs
  | reset =>
    cases h
    cases ht
  | fmtHeader m w h' => exact absurd rfl (hheader m w h')
  | fmtTriplet y j q => exact absurd rfl (htriplet y j q)

/-- In `D_ERR` every operation but DEC.START and RESET leaves DEC alone. -/
theorem dec_of_exec_of_err {i : Instr} {s t : State} (hs : s.dec.phase = .err) (hstart : i ≠ .decStart)
    (hreset : i ≠ .reset) (h : exec i s = .next t) : t.dec = s.dec ∧ t.dPix = s.dPix := by
  have hbytes (bs : List Byte) : decBytes bs s = .next s := decBytes_other bs (by simp [hs]) (by simp [hs])
  cases i with
  | encStart | encHdr | encPix =>
    obtain ⟨hdec, hpix, -⟩ := (unitsShareNothing _ s t h).1 rfl
    exact ⟨hdec, hpix⟩
  | decByte b =>
    cases h.symm.trans (decByteStep_other b s (by simp [hs]) (by simp [hs]))
    exact ⟨rfl, rfl⟩
  | decEos =>
    cases h.symm.trans (exec_decEos_of_err hs)
    exact ⟨rfl, rfl⟩
  | fmtHeader | fmtTriplet =>
    cases h.symm.trans (hbytes _)
    exact ⟨rfl, rfl⟩
  | rgb2yiq | yiq2rgb =>
    cases h
    exact ⟨rfl, rfl⟩
  | decStart => exact absurd rfl hstart
  | reset => exact absurd rfl hreset

/-- Settles O44: bytes and end marks are drained in `D_ERR`, and the two ways out clear `d_err`. -/
theorem firstErrorSticks : Obligations.FirstErrorSticks :=
  fun s hs => ⟨fun _ _ hstart hreset h => dec_of_exec_of_err hs hstart hreset h,
    ⟨_, exec_decStart_of_closed (.inr (.inr hs)), rfl, rfl, rfl⟩, ⟨_, exec_reset s, rfl, rfl⟩⟩

/-- Settles O45: the run of the header's bytes from offset 0. -/
theorem fmtHeaderIsParsed : Obligations.FmtHeaderIsParsed := by
  intro m w h s hs hoff
  refine ⟨pixelCount w h, pixelCount_toNat w h, ?_⟩
  rw [exec_fmtHeader, decBytes_headerBytes m w h hs hoff, ← DPhase.awaiting_pixelCount_eq]
  rfl

/-- Settles O46: the run of a triplet's bytes from lane Y, which ends in lane Y again. -/
theorem fmtTripletIsConverted : Obligations.FmtTripletIsConverted := by
  intro y i q s hs hlane
  exact decBytes_tripletBytes ⟨y, i, q⟩ hs hlane

/-- Settles O47: DEC.BYTES of the row's bytes is DEC.BYTE of each in order. -/
theorem formatRowsAreTheirBytes : Obligations.FormatRowsAreTheirBytes :=
  fun s => ⟨fun m w h => (execList_map_decByte (headerBytes m w h) s).symm,
    fun y i q => (execList_map_decByte [y, i, q] s).symm⟩

end Sys2Proof.Machine

/-! The transforms (40_rgb2yiq.md R100, R113; 41_yiq2rgb.md R120, R122, R130): the inverse matrix, the values the pure
operations return, and their integer forms. -/

namespace Sys2Proof.Machine

/-- Settles O50: an entry of either product is, over the determinant, the determinant on the diagonal and 0 off it. -/
theorem minvIsTheInverse : Obligations.MinvIsTheInverse := by
  intro a hdet
  obtain ⟨d, hd⟩ : ∃ d, d = a.det := ⟨_, rfl⟩
  have hone : d * d⁻¹ = 1 := mul_inv_cancel₀ (hd ▸ hdet)
  simp only [matMul, minv, dot, matId, Mat3.mk.injEq, Vec3.mk.injEq, ← hd]
  rw [Mat3.det] at hd
  constructor
  · exact ⟨⟨by linear_combination hone - d⁻¹ * hd, by ring, by ring⟩,
      ⟨by ring, by linear_combination hone - d⁻¹ * hd, by ring⟩,
      by ring, by ring, by linear_combination hone - d⁻¹ * hd⟩
  · exact ⟨⟨by linear_combination hone - d⁻¹ * hd, by ring, by ring⟩,
      ⟨by ring, by linear_combination hone - d⁻¹ * hd, by ring⟩,
      by ring, by ring, by linear_combination hone - d⁻¹ * hd⟩

theorem det_ne_zero_of_legal {c : Mat3} (h : c.legal = true) : c.det ≠ 0 := by
  rw [Mat3.legal, Bool.and_eq_true, decide_eq_true_eq, decide_eq_true_eq] at h
  exact h.2

/-- Settles O48: each component is the byte of its clamped rounding. -/
theorem rgb2yiqReturnsTriplet : Obligations.Rgb2yiqReturnsTriplet := by
  intro m r g b s c r' g' b'
  exact ⟨_, _, _, rfl, storeComponent_toNat _ (by decide) (by decide), storeComponent_toNat _ (by decide) (by decide),
    storeComponent_toNat _ (by decide) (by decide)⟩

/-- Settles O49: the coefficients of a method have a determinant, so `MINV` is their inverse. -/
theorem yiq2rgbReturnsPixel : Obligations.Yiq2rgbReturnsPixel := by
  intro m y i q s y' i' q'
  have hinv := (minvIsTheInverse (Config.coeff m).mat (det_ne_zero_of_legal (Config.coeff m).isLegal)).1
  exact ⟨_, _, _, _, hinv, rfl, channel_toNat _, channel_toNat _, channel_toNat _⟩

/-! The two tie rules differ on a tie only (R104, R113). -/

theorem floor_eq_of_le_of_lt {x : Exact} {n : Int} (h : (n : Exact) ≤ x) (h' : x < n + 1) : x.floor = n :=
  Int.floor_eq_iff.mpr ⟨h, h'⟩

/-- The integer nearer than 1/2 is the one rounded to. -/
theorem roundHalfAway_of_abs_lt {x : Exact} {n : Int} (h : |x - n| < 1 / 2) : roundHalfAway x = n := by
  obtain ⟨hlo, hhi⟩ := abs_lt.mp h
  rw [roundHalfAway]
  split_ifs
  · exact floor_eq_of_le_of_lt (by linarith) (by linarith)
  · rw [neg_eq_iff_eq_neg]
    exact floor_eq_of_le_of_lt (by push_cast; linarith) (by push_cast; linarith)

theorem eq_add_half_of_round_ne {x : Exact} (h : roundHalfAway x ≠ roundHalfEven x) : ∃ n : Int, x = n + 1 / 2 := by
  have hlo := Rat.floor_le x
  have hhi := Rat.lt_floor_add_one x
  rw [Int.cast_add, Int.cast_one] at hhi
  rcases lt_trichotomy (x - x.floor) (1 / 2) with hlt | heq | hgt
  · have heven : roundHalfEven x = x.floor := if_pos hlt
    have haway : roundHalfAway x = x.floor := roundHalfAway_of_abs_lt (abs_lt.mpr ⟨by linarith, hlt⟩)
    exact absurd (haway.trans heven.symm) h
  · exact ⟨x.floor, by linarith⟩
  · have heven : roundHalfEven x = x.floor + 1 := (if_neg hgt.not_gt).trans (if_pos hgt)
    have haway : roundHalfAway x = x.floor + 1 := by
      apply roundHalfAway_of_abs_lt
      push_cast
      exact abs_lt.mpr ⟨by linarith, by linarith⟩
    exact absurd (haway.trans heven.symm) h

/-! The integer forms. -/

theorem floor_intCast_div {n d : Int} (hd : 0 < d) : ((n : Exact) / d).floor = n / d := by
  have h : ⌊(n : Exact) / d⌋ = ⌊(n : Exact)⌋ / d := Int.floor_div_cast_of_nonneg hd.le _
  rwa [Int.floor_intCast] at h

/-- A stored component whose scaled raw value is `n` over 25500 (R113). -/
theorem storeComponent_of_eq_div {x : Exact} {hi n : Int} (h0 : 0 ≤ hi) (h1 : hi ≤ 255) (hx : 100 * x = n / 25500) :
    ((storeComponent x hi).toNat : Int) = if 0 ≤ n then clampInt ((2 * n + 25500) / 51000) 0 hi else 0 := by
  have hsign : (0 : Exact) ≤ n / 25500 ↔ 0 ≤ n := by
    rw [le_div_iff₀ (by norm_num), zero_mul, Int.cast_nonneg_iff]
  have hhalf : (n : Exact) / 25500 + 1 / 2 = ((2 * n + 25500 : Int) : Exact) / (51000 : Int) := by
    push_cast
    ring
  rw [storeComponent_toNat x h0 h1, Config.scale, hx, clampInt_rnd_eq_floor_form _ h0, hhalf,
    floor_intCast_div (by decide)]
  simp only [hsign]

/-- Settles O57: over the common denominator each scaled raw value is its `N` over 25500. -/
theorem forwardIntegerForm : Obligations.ForwardIntegerForm := by
  refine ⟨fun x h => eq_add_half_of_round_ne h, ?_⟩
  intro a p form r g b
  refine ⟨?_, ?_, ?_⟩
  · refine storeComponent_of_eq_div (by decide) (by decide) ?_
    simp only [dot, IntMat.coeff, normalise, num, r, g, b]
    push_cast
    ring
  · refine storeComponent_of_eq_div (by decide) (by decide) ?_
    simp only [dot, IntMat.coeff, normalise, num, Config.offI, r, g, b]
    push_cast
    ring
  · refine storeComponent_of_eq_div (by decide) (by decide) ?_
    simp only [dot, IntMat.coeff, normalise, num, Config.offQ, r, g, b]
    push_cast
    ring

theorem channel_toNat_eq_rnd (c : Exact) : ((channel c).toNat : Int) = rnd (255 * clampNum c 0 1) := by
  obtain ⟨-, -, hclamp, -⟩ := idle_second_clamp c
  rw [channel_toNat, hclamp]

theorem clampNum_of_le_lo {x lo hi : Exact} (hx : x ≤ lo) (h : lo ≤ hi) : clampNum x lo hi = lo := by
  unfold clampNum
  split_ifs <;> linarith

theorem clampNum_of_hi_le {x lo hi : Exact} (hx : hi ≤ x) (h : lo ≤ hi) : clampNum x lo hi = hi := by
  unfold clampNum
  split_ifs <;> linarith

theorem clampNum_id {x lo hi : Exact} (h1 : lo ≤ x) (h2 : x ≤ hi) : clampNum x lo hi = x := by
  simp [clampNum, not_lt.mpr h1, not_lt.mpr h2]

/-- The integer form of a channel whose raw value is `s` over a positive `d` (R130). -/
def channelForm (s d : Int) : Int := if s ≤ 0 then 0 else if d ≤ s then 255 else (2 * 255 * s + d) / (2 * d)

theorem channel_div_of_pos {s d : Int} (hd : 0 < d) : ((channel ((s : Exact) / d)).toNat : Int) = channelForm s d := by
  have hd' : (0 : Exact) < d := Int.cast_pos.mpr hd
  rw [channel_toNat_eq_rnd, channelForm]
  split_ifs with hlo hhi
  · have hle : (s : Exact) / d ≤ 0 := div_nonpos_of_nonpos_of_nonneg (Int.cast_nonpos.mpr hlo) hd'.le
    rw [clampNum_of_le_lo hle zero_le_one, mul_zero]
    exact rnd_intCast 0
  · have hge : 1 ≤ (s : Exact) / d := (one_le_div hd').mpr (Int.cast_le.mpr hhi)
    rw [clampNum_of_hi_le hge zero_le_one, mul_one]
    exact rnd_intCast 255
  · have hnonneg : 0 ≤ (s : Exact) / d := div_nonneg (Int.cast_nonneg (not_le.mp hlo).le) hd'.le
    have hle : (s : Exact) / d ≤ 1 := (div_le_one hd').mpr (Int.cast_le.mpr (not_le.mp hhi).le)
    have hhalf : 255 * ((s : Exact) / d) + 1 / 2 = ((2 * 255 * s + d : Int) : Exact) / (2 * d : Int) := by
      push_cast
      field_simp
      ring
    rw [clampNum_id hnonneg hle, rnd_of_nonneg (by positivity), hhalf, floor_intCast_div (by omega)]

/-- A negative denominator changes both signs (R130). -/
theorem channel_div {s d : Int} (hd : d ≠ 0) :
    ((channel ((s : Exact) / d)).toNat : Int) = if d < 0 then channelForm (-s) (-d) else channelForm s d := by
  split_ifs with hneg
  · rw [← neg_div_neg_eq, ← Int.cast_neg, ← Int.cast_neg]
    exact channel_div_of_pos (neg_pos.mpr hneg)
  · exact channel_div_of_pos (lt_of_le_of_ne (not_lt.mp hneg) hd.symm)

/-- Settles O58: with entries over 10000 each channel's raw value is its `S` over the determinant. -/
theorem inverseIntegerForm : Obligations.InverseIntegerForm := by
  intro a t det v0 v1 v2 s0 s1 s2 form signed hdet
  have hdet' : (det : Exact) ≠ 0 := Int.cast_ne_zero.mpr hdet
  have hcoeff : a.coeff.det = det / 10000 ^ 3 := by
    simp only [Mat3.det, IntMat.coeff, det]
    push_cast
    ring
  have hraw : dot (minv a.coeff).row0 (unscale t) = s0 / det ∧ dot (minv a.coeff).row1 (unscale t) = s1 / det ∧
      dot (minv a.coeff).row2 (unscale t) = s2 / det := by
    simp only [minv, hcoeff, dot, unscale, num]
    simp only [IntMat.coeff, Config.offI, Config.offQ, s0, s1, s2, v0, v1, v2]
    push_cast
    refine ⟨?_, ?_, ?_⟩ <;> field_simp <;> ring
  obtain ⟨hr, hg, hb⟩ := hraw
  exact ⟨(congrArg (fun c => ((channel c).toNat : Int)) hr).trans (channel_div hdet),
    (congrArg (fun c => ((channel c).toNat : Int)) hg).trans (channel_div hdet),
    (congrArg (fun c => ((channel c).toNat : Int)) hb).trans (channel_div hdet)⟩

end Sys2Proof.Machine

/-! The round trip of a pixel (41_yiq2rgb.md R127): the rounding error of each stored component, carried through the
inverse matrix, and the rounding of each channel. -/

namespace Sys2Proof.Machine

theorem abs_rnd_sub_le (x : Exact) : |(rnd x : Exact) - x| ≤ 1 / 2 := by
  rcases lt_or_ge x 0 with hx | hx
  · have hlo := Rat.floor_le (-x + 1 / 2)
    have hhi := Rat.lt_floor_add_one (-x + 1 / 2)
    rw [rnd_of_neg hx, abs_le]
    push_cast at hhi ⊢
    constructor <;> linarith
  · have hlo := Rat.floor_le (x + 1 / 2)
    have hhi := Rat.lt_floor_add_one (x + 1 / 2)
    rw [rnd_of_nonneg hx, abs_le]
    push_cast at hhi
    constructor <;> linarith

/-- Clamping brings no value further from one within the bounds. -/
theorem abs_clampNum_sub_le {x y lo hi : Exact} (h0 : lo ≤ y) (h1 : y ≤ hi) : |clampNum x lo hi - y| ≤ |x - y| := by
  unfold clampNum
  split_ifs with hlo hhi
  · rw [abs_of_nonpos (by linarith), abs_of_nonpos (by linarith)]
    linarith
  · rw [abs_of_nonneg (by linarith), abs_of_nonneg (by linarith)]
    linarith
  · exact le_rfl

/-- A stored component is within 1/2 of a scaled raw value that is within 1/2 of its domain. -/
theorem abs_storeComponent_sub_le {x : Exact} {hi : Int} (h0 : 0 ≤ hi) (h1 : hi ≤ 255) (hlo : -(1 / 2) ≤ 100 * x)
    (hhi : 100 * x ≤ hi + 1 / 2) : |num (storeComponent x hi) - 100 * x| ≤ 1 / 2 := by
  have hstore := storeComponent_toNat x h0 h1
  rw [Config.scale, clampInt_rnd _ h0] at hstore
  have hnum : num (storeComponent x hi) = (rnd (clampNum (100 * x) (0 : Int) hi) : Exact) := by
    rw [num, ← hstore, Int.cast_natCast]
  rw [hnum]
  unfold clampNum
  split_ifs with hneg hbig
  · rw [rnd_intCast]
    push_cast at hneg ⊢
    rw [abs_le]
    constructor <;> linarith
  · rw [rnd_intCast, abs_le]
    constructor <;> linarith
  · exact abs_rnd_sub_le _

/-- A channel is as near to a level as its scaled raw value, but for its rounding. -/
theorem abs_channel_sub_le (c : Exact) {v : Exact} (h0 : 0 ≤ v) (h1 : v ≤ 255) :
    |num (channel c) - v| ≤ |255 * c - v| + 1 / 2 := by
  have hnum : num (channel c) = (rnd (255 * clampNum c 0 1) : Exact) := by
    rw [num, ← channel_toNat_eq_rnd, Int.cast_natCast]
  have hrnd := abs_rnd_sub_le (255 * clampNum c 0 1)
  rw [scaled_clampNum] at hrnd hnum
  have hclamp : |clampNum (255 * c) (0 : Int) (255 : Int) - v| ≤ |255 * c - v| :=
    abs_clampNum_sub_le (by simpa using h0) (by simpa using h1)
  rw [hnum]
  calc |(rnd (clampNum (255 * c) (0 : Int) (255 : Int)) : Exact) - v|
    _ ≤ |(rnd (clampNum (255 * c) (0 : Int) (255 : Int)) : Exact) - clampNum (255 * c) (0 : Int) (255 : Int)| +
        |clampNum (255 * c) (0 : Int) (255 : Int) - v| := abs_sub_le _ _ _
    _ ≤ 1 / 2 + |255 * c - v| := add_le_add hrnd hclamp
    _ = |255 * c - v| + 1 / 2 := add_comm _ _

/-- The product of a matrix and a column. -/
def matVec (a : Mat3) (v : Vec3) : Vec3 := ⟨dot a.row0 v, dot a.row1 v, dot a.row2 v⟩

theorem matVec_matMul (a b : Mat3) (v : Vec3) : matVec (matMul a b) v = matVec a (matVec b v) := by
  simp only [matVec, matMul, dot, Vec3.mk.injEq]
  refine ⟨?_, ?_, ?_⟩ <;> ring

theorem matVec_matId (v : Vec3) : matVec matId v = v := by
  simp [matVec, matId, dot]

theorem matVec_minv_matVec {c : Mat3} (hdet : c.det ≠ 0) (v : Vec3) : matVec (minv c) (matVec c v) = v := by
  rw [← matVec_matMul, (minvIsTheInverse c hdet).1, matVec_matId]

/-- The sum of the weights' sizes. -/
def weightSize (w : Vec3) : Exact := |w.x| + |w.y| + |w.z|

/-- No entry of `u` is further than `ε` from that of `v`. -/
def Near (ε : Exact) (u v : Vec3) : Prop := |u.x - v.x| ≤ ε ∧ |u.y - v.y| ≤ ε ∧ |u.z - v.z| ≤ ε

theorem abs_dot_sub_le {ε : Exact} {u v : Vec3} (h : Near ε u v) (w : Vec3) :
    |dot w u - dot w v| ≤ weightSize w * ε := by
  obtain ⟨hx, hy, hz⟩ := h
  have hsplit : dot w u - dot w v = w.x * (u.x - v.x) + w.y * (u.y - v.y) + w.z * (u.z - v.z) := by
    simp only [dot]
    ring
  calc |dot w u - dot w v|
    _ ≤ |w.x * (u.x - v.x)| + |w.y * (u.y - v.y)| + |w.z * (u.z - v.z)| := hsplit ▸ abs_add_three _ _ _
    _ = |w.x| * |u.x - v.x| + |w.y| * |u.y - v.y| + |w.z| * |u.z - v.z| := by rw [abs_mul, abs_mul, abs_mul]
    _ ≤ |w.x| * ε + |w.y| * ε + |w.z| * ε := by gcongr
    _ = weightSize w * ε := by rw [weightSize]; ring

/-- Channels from 0 to 1. -/
def InUnit (v : Vec3) : Prop := (0 ≤ v.x ∧ v.x ≤ 1) ∧ (0 ≤ v.y ∧ v.y ≤ 1) ∧ (0 ≤ v.z ∧ v.z ≤ 1)

theorem num_nonneg (b : Byte) : 0 ≤ num b := Nat.cast_nonneg _

theorem num_le (b : Byte) : num b ≤ 255 := by
  rw [num]
  exact_mod_cast Nat.le_of_lt_succ b.isLt

theorem num_div_mem (b : Byte) : 0 ≤ num b / 255 ∧ num b / 255 ≤ 1 := by
  exact ⟨div_nonneg (num_nonneg b) (by norm_num), (div_le_one (by norm_num)).mpr (num_le b)⟩

theorem normalise_inUnit (p : Rgb) : InUnit (normalise p) :=
  ⟨num_div_mem p.r, num_div_mem p.g, num_div_mem p.b⟩

/-- The raw values of a row with its offset are, scaled, within 1/2 of the domain 0 to `hi`. -/
def RawWithin (w : Vec3) (off hi : Exact) : Prop :=
  -(1 / 2) ≤ 100 * (min w.x 0 + min w.y 0 + min w.z 0 + off) ∧
    100 * (max w.x 0 + max w.y 0 + max w.z 0 + off) ≤ hi + 1 / 2

theorem mul_mem_of_unit (w : Exact) {v : Exact} (h : 0 ≤ v ∧ v ≤ 1) : min w 0 ≤ w * v ∧ w * v ≤ max w 0 := by
  obtain ⟨h0, h1⟩ := h
  rcases le_total w 0 with hw | hw
  · rw [min_eq_left hw, max_eq_right hw]
    constructor <;> nlinarith
  · rw [min_eq_right hw, max_eq_left hw]
    constructor <;> nlinarith

theorem RawWithin.scaled {w : Vec3} {off hi : Exact} (h : RawWithin w off hi) {v : Vec3} (hv : InUnit v) :
    -(1 / 2) ≤ 100 * (dot w v + off) ∧ 100 * (dot w v + off) ≤ hi + 1 / 2 := by
  obtain ⟨hlo, hhi⟩ := h
  obtain ⟨hx, hy, hz⟩ := hv
  obtain ⟨hx0, hx1⟩ := mul_mem_of_unit w.x hx
  obtain ⟨hy0, hy1⟩ := mul_mem_of_unit w.y hy
  obtain ⟨hz0, hz1⟩ := mul_mem_of_unit w.z hz
  rw [dot]
  constructor <;> linarith

theorem abs_stored_sub_le {w : Vec3} {off : Exact} {hi : Int} (h : RawWithin w off hi) (h0 : 0 ≤ hi) (h1 : hi ≤ 255)
    (p : Rgb) :
    |num (storeComponent (dot w (normalise p) + off) hi) / 100 - off - dot w (normalise p)| ≤ 1 / 200 := by
  obtain ⟨hlo, hhi⟩ := h.scaled (v := normalise p) (normalise_inUnit p)
  have herr := abs_storeComponent_sub_le h0 h1 hlo hhi
  rw [abs_le] at herr ⊢
  constructor <;> linarith [herr.1, herr.2]

/-- The raw values of every row are, with their offsets, within the domains. -/
def RowsWithin (c : Mat3) : Prop :=
  RawWithin c.row0 0 (100 : Int) ∧ RawWithin c.row1 Config.offI (119 : Int) ∧ RawWithin c.row2 Config.offQ (105 : Int)

/-- Storing loses at most half a hundredth of each raw value. -/
theorem unscale_rgb2yiq_near {c : Mat3} (h : RowsWithin c) (p : Rgb) :
    Near (1 / 200) (unscale (rgb2yiq c p)) (matVec c (normalise p)) := by
  obtain ⟨hy, hi, hq⟩ := h
  refine ⟨?_, abs_stored_sub_le hi (by decide) (by decide) p, abs_stored_sub_le hq (by decide) (by decide) p⟩
  have hstored := abs_stored_sub_le hy (by decide) (by decide) p
  rwa [add_zero, sub_zero] at hstored

theorem levels_le_of_abs_lt {a b : Byte} {n : Nat} (h : |num a - num b| < n + 1) : levels a b ≤ n := by
  have hint : |(a.toNat : Int) - b.toNat| < n + 1 := by
    rw [num, num] at h
    exact_mod_cast h
  rw [abs_lt] at hint
  rw [levels]
  omega

/-- The levels a channel of the round trip can be off by: the error of the three components through its row of the
inverse matrix, and its own rounding. -/
theorem levels_channel_le {c : Mat3} (h : RowsWithin c) (p : Rgb) {w : Vec3} {b : Byte} {n : Nat}
    (hw : dot w (matVec c (normalise p)) = num b / 255) (hn : 255 * (weightSize w * (1 / 200)) + 1 / 2 < n + 1) :
    levels (channel (dot w (unscale (rgb2yiq c p)))) b ≤ n := by
  have hdot := abs_dot_sub_le (unscale_rgb2yiq_near h p) w
  have hscaled : 255 * dot w (unscale (rgb2yiq c p)) - num b = 255 * (dot w (unscale (rgb2yiq c p)) - num b / 255) := by
    ring
  apply levels_le_of_abs_lt
  calc |num (channel (dot w (unscale (rgb2yiq c p)))) - num b|
    _ ≤ |255 * dot w (unscale (rgb2yiq c p)) - num b| + 1 / 2 := abs_channel_sub_le _ (num_nonneg b) (num_le b)
    _ = 255 * |dot w (unscale (rgb2yiq c p)) - num b / 255| + 1 / 2 := by
      rw [hscaled, abs_mul, abs_of_nonneg (by norm_num : (0 : Exact) ≤ 255)]
    _ ≤ 255 * (weightSize w * (1 / 200)) + 1 / 2 := by
      rw [← hw]
      gcongr
    _ < n + 1 := hn

/-- The bound that the sizes of the rows of the inverse matrix give. -/
theorem roundTripWithin_of_rows {c : Mat3} {bound : RtBound} (hdet : c.det ≠ 0) (h : RowsWithin c)
    (hr : 255 * (weightSize (minv c).row0 * (1 / 200)) + 1 / 2 < bound.r + 1)
    (hg : 255 * (weightSize (minv c).row1 * (1 / 200)) + 1 / 2 < bound.g + 1)
    (hb : 255 * (weightSize (minv c).row2 * (1 / 200)) + 1 / 2 < bound.b + 1) : RoundTripWithin c bound := by
  intro p
  have hinv := matVec_minv_matVec hdet (normalise p)
  exact ⟨levels_channel_le h p (congrArg Vec3.x hinv) hr, levels_channel_le h p (congrArg Vec3.y hinv) hg,
    levels_channel_le h p (congrArg Vec3.z hinv) hb⟩

/-- Settles O59: the sizes of the rows of both inverse matrices are small enough. -/
theorem candidateRoundTripBound : Obligations.CandidateRoundTripBound := by
  have hdet : candNtsc1953.det ≠ 0 := by decide +kernel
  have hdet' : candSmptec.det ≠ 0 := by decide +kernel
  have hrows : RowsWithin candNtsc1953 := by unfold RowsWithin RawWithin; decide +kernel
  have hrows' : RowsWithin candSmptec := by unfold RowsWithin RawWithin; decide +kernel
  exact ⟨roundTripWithin_of_rows hdet hrows (by decide +kernel) (by decide +kernel) (by decide +kernel),
    roundTripWithin_of_rows hdet' hrows' (by decide +kernel) (by decide +kernel) (by decide +kernel)⟩

end Sys2Proof.Machine
